-- ==== Sys2Proof/Word.lean ====
section
/-! DEFINITION. The block's basic data: bytes, command words, RGB triples and time (00_scope.md R12, R10). -/

namespace Sys2Proof

/-- An 8-bit register cell, plane byte or register code (R12, R20). -/
abbrev Byte := BitVec 8

/-- A 32-bit command word (R91). -/
abbrev Word := BitVec 32

/-- An RGB triple with 8-bit components (R31, R145). -/
structure RGB where
  r : Byte
  g : Byte
  b : Byte
  deriving DecidableEq, Repr, Inhabited

/-- Seconds, exact (R10, R191). -/
abbrev Seconds := Rat

/-- `DISPLAY_W`, in pixels (R8). -/
abbrev displayW : Nat := 640

/-- `DISPLAY_H`, in scanlines (R8). -/
abbrev displayH : Nat := 350

/-- `COLS = DISPLAY_W / 8`, the byte-columns of one scanline (R162). -/
abbrev cols : Nat := 80

/-- `FRAME_BUDGET`, exactly 1/60 s (R10). -/
def frameBudget : Seconds := 1 / 60

end Sys2Proof
end

