-- ==== Sys2Proof/Syntax.lean ====
section
/-! DEFINITION. The instructions: seven client commands and seven renderer steps (opcode_table.json; 30_encoding.md
R92, R104), the register banks (R20) and the renderer's phases (R25). -/

namespace Sys2Proof

/-- The four register banks (R20), in the order of R93. -/
inductive Bank where
  | gen | crt | gc | seq
  deriving DecidableEq, Repr, Inhabited

/-- The values of the renderer's phase register (R25). -/
inductive Phase where
  | idle | frameStart | lineBegin | column | lineEnd | frameEnd | poll | pace | terminated
  deriving DecidableEq, Repr, Inhabited

/-- One constructor per row of spec/opcode_table.json. -/
inductive Instr where
  /-- GET_REG bank, id (R94, R210). -/
  | getReg (bank : Bank) (id : Byte)
  /-- SET_REG bank, id, value (R95, R211). -/
  | setReg (bank : Bank) (id value : Byte)
  /-- READ_PLANE plane, offset (R96, R123). -/
  | readPlane (plane : Fin 4) (offset : BitVec 16)
  /-- WRITE_BYTE offset, value (R97, R120). -/
  | writeByte (offset : BitVec 16) (value : Byte)
  /-- WRITE_CHUNK offset, [bytes] (R98, R122). -/
  | writeChunk (offset : BitVec 16) (bytes : List Byte)
  /-- START_RENDERING mode (R99, R213). -/
  | startRendering (mode : Byte)
  /-- WRITE_FULL; its other 28 bits are any (R100, R125). -/
  | writeFull (rest : BitVec 28)
  /-- FRAME_START (R161). -/
  | frameStart
  /-- LINE_BEGIN (R163). -/
  | lineBegin
  /-- COLUMN (R164). -/
  | column
  /-- LINE_END (R165). -/
  | lineEnd
  /-- FRAME_END (R166). -/
  | frameEnd
  /-- POLL (R168). -/
  | poll
  /-- PACE (R190). -/
  | pace
  deriving DecidableEq, Repr

end Sys2Proof
end

