-- ==== Sys2Proof/Config.lean ====
section
/-! DEFINITION. What an implementation fixes (00_scope.md R6 to R11): the block's parameters as plain data, which State
carries and no step changes, with the defaults of R11; and the free values, opaque constants that stand for the spec's
`draw`s (R13) where the state holds no answer for one. -/

namespace Sys2Proof

/-- `ADDR_MODE_POLICY` (41_addressing.md R126). -/
inductive AddrModePolicy where
  | ignoreModeBits | faultNonPlanar
  deriving DecidableEq, Repr, Inhabited

/-- The host's answer to a `Present` (R167). -/
inductive PresentOutcome where
  | accepted | failed
  deriving DecidableEq, Repr, Inhabited

/-- The parameters of R11. Every statement about all states is a statement about all parameter values. -/
structure Config where
  /-- `PLANE_BYTES` (R7). -/
  planeBytes : Nat
  /-- `ADDR_MODE_POLICY` (R126). -/
  addrMode : AddrModePolicy
  /-- `KNOWN_IDS(GEN)` (R21). -/
  knownGen : List Byte
  /-- `KNOWN_IDS(CRT)`. -/
  knownCrt : List Byte
  /-- `KNOWN_IDS(GC)`. -/
  knownGc : List Byte
  /-- `KNOWN_IDS(SEQ)`. -/
  knownSeq : List Byte
  /-- `ID_STATUS`, in GEN (R22). -/
  idStatus : Byte
  /-- `ID_CRT_OFFSET`, in CRT (R24). -/
  idCrtOffset : Byte
  /-- `ID_CRT_START_HI`, in CRT (R28). -/
  idCrtStartHi : Byte
  /-- `ID_CRT_START_LO`, in CRT (R28). -/
  idCrtStartLo : Byte
  /-- `ID_GC_MODE`, in GC (R29). -/
  idGcMode : Byte
  /-- `ID_GC_MISC`, in GC (R29). -/
  idGcMisc : Byte
  /-- `ID_MAP_MASK`, in SEQ (R23). -/
  idMapMask : Byte
  /-- `ID_SEQ_MEMMODE`, in SEQ (R29). -/
  idSeqMemMode : Byte
  /-- `VR_MASK` (R22). -/
  vrMask : Byte
  /-- `DE_MASK` (R22). -/
  deMask : Byte
  /-- `SUPPORTED_MODE` (R9). -/
  supportedMode : Byte
  /-- `PALETTE` (R145, R146). -/
  palette : Vector RGB 16
  deriving DecidableEq, Repr

/-- `KNOWN_IDS(bank)` (R21). -/
def Config.known (c : Config) : Bank → List Byte
  | .gen => c.knownGen
  | .crt => c.knownCrt
  | .gc => c.knownGc
  | .seq => c.knownSeq

/-- The mask has exactly one bit set. -/
def oneBit (m : Byte) : Bool := (List.range 8).any fun i => m = 1#8 <<< i

/-- What R7, R11, R21, R145 require of the parameters. -/
def Config.wf (c : Config) : Bool :=
  decide (1 ≤ c.planeBytes) && decide (c.planeBytes ≤ 65536)
  && c.knownGen.contains c.idStatus
  && c.knownCrt.contains c.idCrtOffset && c.knownCrt.contains c.idCrtStartHi && c.knownCrt.contains c.idCrtStartLo
  && c.knownGc.contains c.idGcMode && c.knownGc.contains c.idGcMisc
  && c.knownSeq.contains c.idMapMask && c.knownSeq.contains c.idSeqMemMode
  && decide [c.idCrtOffset, c.idCrtStartHi, c.idCrtStartLo].Nodup
  && decide (c.idGcMode ≠ c.idGcMisc) && decide (c.idMapMask ≠ c.idSeqMemMode)
  && oneBit c.vrMask && oneBit c.deMask && decide (c.vrMask ≠ c.deMask)
  && decide (c.palette[0] = ⟨0, 0, 0⟩) && decide (c.palette[15] = ⟨254, 254, 254⟩)
  && decide c.palette.toList.Nodup

/-- The default palette, R146's table: entries 0 and 15 are the source's, the others general knowledge. -/
def defaultPalette : Vector RGB 16 :=
  #v[⟨0x00, 0x00, 0x00⟩, ⟨0x00, 0x00, 0xA8⟩, ⟨0x00, 0xA8, 0x00⟩, ⟨0x00, 0xA8, 0xA8⟩,
     ⟨0xA8, 0x00, 0x00⟩, ⟨0xA8, 0x00, 0xA8⟩, ⟨0xA8, 0x54, 0x00⟩, ⟨0xA8, 0xA8, 0xA8⟩,
     ⟨0x54, 0x54, 0x54⟩, ⟨0x54, 0x54, 0xFE⟩, ⟨0x54, 0xFE, 0x54⟩, ⟨0x54, 0xFE, 0xFE⟩,
     ⟨0xFE, 0x54, 0x54⟩, ⟨0xFE, 0x54, 0xFE⟩, ⟨0xFE, 0xFE, 0x54⟩, ⟨0xFE, 0xFE, 0xFE⟩]

/-- The defaults of R11. `KNOWN_IDS` has no default there: DESIGN CHOICE, exactly the named ids (assumption 2). -/
def Config.default : Config where
  planeBytes := 65536
  addrMode := .ignoreModeBits
  knownGen := [0xDA]
  knownCrt := [0x0C, 0x0D, 0x13]
  knownGc := [0x05, 0x06]
  knownSeq := [0x02, 0x04]
  idStatus := 0xDA
  idCrtOffset := 0x13
  idCrtStartHi := 0x0C
  idCrtStartLo := 0x0D
  idGcMode := 0x05
  idGcMisc := 0x06
  idMapMask := 0x02
  idSeqMemMode := 0x04
  vrMask := 0x08
  deMask := 0x01
  supportedMode := 0x10
  palette := defaultPalette

/-- FREE VALUE: the byte a GET_REG of an unknown code returns, the n-th draw (R21, R216; assumption 7). -/
opaque Config.freeByte : Nat → Byte

/-- FREE VALUE: a scheduler's choice, or the order of events the spec leaves unordered (R67, R68, R77; assumption 5). -/
opaque Config.freePick : Nat → Nat

/-- FREE VALUE: how far the host's clock has moved since its last reading, as numerator and denominator less one
(R191; assumption 8). -/
opaque Config.freeTick : Nat → Nat × Nat

/-- FREE VALUE: the host's answer to a `Present`, or none yet (R167; assumptions 9 and 18). -/
opaque Config.freePresent : Nat → Option PresentOutcome

/-- FREE VALUE: whether the host has lifted a sleep's hold (R192; assumption 18). -/
opaque Config.freeWake : Nat → Bool

/-- FREE VALUE: the host's termination input at a POLL (R168; assumption 10). -/
opaque Config.freeTerminate : Nat → Bool

end Sys2Proof
end

