-- ==== Sys2Proof/Machine/State.lean ====
section
/-! DEFINITION. The machine's state as plain data (10_state.md R20 to R40) and its reset value (R38; 70_reset_and_hazards.md
R260). What the model adds to the spec's state (pending events of an interrupted command, the schedule, the answers the
host has already given) is marked "the model's own" at its field. -/

namespace Sys2Proof.Machine

/-! ## Faults the block records, and events -/

/-- The causes of a `UsageFault` (R236). -/
inductive UsageCause where
  | statusWrite | alreadyRendering
  deriving DecidableEq, Repr

/-- The faults of R231 with the information each records. Raising one is an effect (R230): it is written to `FAULT`. -/
inductive FaultRecord where
  | boundsFault (offset : Nat)
  | unsupportedMode (mode : Byte)
  | nonPositivePitch (offsetValue : Byte)
  | outputSurfaceFault
  | usageFault (cause : UsageCause)
  | illegalCommand (w : Word)
  | refused (mnemonic : String)
  | addressingModeFault (offset : Nat)
  deriving DecidableEq, Repr

/-- The two status signals (R22). -/
inductive Signal where
  | vr | de
  deriving DecidableEq, Repr

/-- The agents that are scheduled (R76): the clients by number and the renderer. The host is not: it only answers draws
and lifts holds (`Draws`). -/
inductive Agent where
  | client (k : Nat)
  | renderer
  deriving DecidableEq, Repr

/-- A plane memory or a register space: (key, byte) pairs, keys rising, no byte equal to `unlistedByte`. -/
abbrev Memory := List Host.Cell

/-- A framebuffer: (640 y + x, colour) pairs in the same canonical form. -/
abbrev Pixels := List (Nat × RGB)

/-- The entries of the event history (R27). -/
inductive Event where
  | regRead (bank : Bank) (id value : Byte)
  | regWrite (bank : Bank) (id value : Byte)
  | planeRead (k : Fin 4) (a : Nat) (value : Byte)
  | planeWrite (k : Fin 4) (a : Nat) (value : Byte)
  | statusUpdate (sig : Signal) (on : Bool)
  | present (frame : Pixels)
  | sleep (d : Seconds)
  | overrun (d : Seconds)
  | fault (f : FaultRecord)
  deriving DecidableEq, Repr

/-! ## Pending events

A command or a renderer step is a list of atomic events (R13, R64); other agents' events may fall between them (R67,
R68). The model's own: the events of an instruction that its agent has not performed yet. -/

/-- One event of a client's command. -/
inductive ClientOp where
  /-- GET_REG's read, or its draw for an unknown code, kept in latch slot 0 (R210). -/
  | getReg (bank : Bank) (id : Byte)
  /-- SET_REG's write (R211). -/
  | setReg (bank : Bank) (id value : Byte)
  /-- READ_PLANE's bounds check and read, kept in latch slot 0 (R123). -/
  | readPlane (k : Fin 4) (a : Nat)
  /-- `respond v` (R105), `v` in latch slot 0: an event of its own after the read (R13; DEDUCED, assumption 25). -/
  | respond
  /-- One plane of a single-byte write: the atomic block of R120. -/
  | writePlane (k : Fin 4) (a : Nat) (value : Byte)
  /-- One of the three mode register reads of R126, kept in a latch slot. -/
  | readMode (slot : Fin 4) (bank : Bank) (id : Byte)
  /-- The check of `planarMode()` on the bytes read (R126, R127). -/
  | checkPlanar (a : Nat)
  /-- START_RENDERING's check that the phase is IDLE (R213, R214). -/
  | checkPhase
  /-- START_RENDERING's check of the mode (R213, R233). -/
  | checkMode (mode : Byte)
  /-- START_RENDERING's read of CRT Offset, kept in latch slot 0 (R213). -/
  | readPitch
  /-- START_RENDERING's check of the byte read and its start of the frame loop (R213). -/
  | start (mode : Byte)
  /-- A fault (R230). -/
  | raise (f : FaultRecord)
  deriving DecidableEq, Repr

/-- One event of a renderer step, or a group of its private statements. -/
inductive RendererOp where
  /-- `t0 <- draw now` (R161). -/
  | readTime
  /-- SetVR, ClrVR, SetDE or ClrDE (R200 to R203). -/
  | signal (sig : Signal) (on : Bool)
  /-- A register read of FRAME_START, kept in a latch slot (R161). -/
  | latchReg (slot : Fin 4) (bank : Bank) (id : Byte)
  /-- FRAME_START's pitch check and latches (R161). -/
  | latchFrame
  /-- LINE_BEGIN's `col <- 0; phase <- COLUMN` (R163). -/
  | enterColumns
  /-- COLUMN's read of plane `k`, kept in latch slot `k` (R164). -/
  | latchPlane (k : Fin 4) (a : Nat)
  /-- COLUMN's eight pixels and its advance (R164). -/
  | drawColumn
  /-- LINE_END's `rowBase <- rowBase + pitch` (R165). -/
  | advanceRow
  /-- LINE_END's `y <- y + 1` and next phase (R165). -/
  | nextLine
  /-- FRAME_END's `emit Present(copy of FB)`, which begins a hold (R166, R167). -/
  | present
  /-- Waits until the host has lifted the hold, if there is one (R167, R192). -/
  | awaitHost
  /-- `phase <- p`. -/
  | enter (p : Phase)
  /-- POLL's sample of the termination input and next phase (R168). -/
  | poll
  /-- PACE's time reading and its Sleep or Overrun (R190). -/
  | pace
  /-- A fault (R230). -/
  | raise (f : FaultRecord)
  deriving DecidableEq, Repr

/-- Bytes read by the events of an instruction in progress, by slot: the pseudocode's `v` (R123, R210), `o` (R161, R213),
`hi`, `lo`, `q0` to `q3` (R161, R164) and the three mode bytes (R126). -/
abbrev Latch := Vector Byte 4

/-! ## Agents' state -/

/-- A client's private state (R34). -/
structure Client where
  /-- The rest of its command stream: its position in it (R34). -/
  stream : List Word
  /-- The response last returned by GET_REG or READ_PLANE (R34, R105). -/
  response : Option Byte
  /-- Blocked in START_RENDERING: it has become the renderer (R34, R217). -/
  blocked : Bool
  /-- The model's own: the events of its present command still to perform. -/
  ops : List ClientOp
  /-- The model's own: the bytes its present command has read. -/
  latch : Latch
  deriving DecidableEq, Repr

/-- The holds of the renderer (R167, R192, R251). -/
inductive Hold where
  | present | sleep
  deriving DecidableEq, Repr

/-- The renderer's registers (R25, R26). -/
structure Renderer where
  /-- The phase register (R25). -/
  phase : Phase
  /-- The current scanline, 0 to 350. -/
  y : Nat
  /-- The current byte-column, 0 to 80. -/
  col : Nat
  /-- The plane offset of the scanline's first byte. -/
  rowBase : Nat
  /-- The page start latched for this frame. -/
  start : Nat
  /-- The pitch latched for this frame, in bytes. -/
  pitch : Nat
  /-- The time reading at the start of this frame. -/
  t0 : Seconds
  /-- The mode START_RENDERING accepted. -/
  mode : Byte
  /-- The hold the renderer waits in, if any (R167, R192). -/
  hold : Option Hold
  /-- The model's own: the events of its present step still to perform. -/
  ops : List RendererOp
  /-- The model's own: the bytes its present step has read. -/
  latch : Latch
  deriving DecidableEq, Repr

/-! ## Schedule and draws -/

/-- One turn of the schedule: an agent, and how many events of one instruction it performs before another agent may
(`none`: all of them). -/
structure Turn where
  agent : Agent
  grant : Option Nat
  deriving DecidableEq, Repr

/-- The model's own: the answers the host has already given to `draw`s (R13), oldest first, and the number of free values
drawn beyond them. Where a list is empty the next answer is a free value of Config; a hold then lasts until an answer
comes (R167, R192). -/
structure Draws where
  /-- Bytes for GET_REG of an unknown code (R21). -/
  bytes : List Byte
  /-- Orders of unordered events (R67, R68, R161, R126). -/
  orders : List Nat
  /-- Clock advances between readings: numerator, denominator less one (R191). -/
  ticks : List (Nat × Nat)
  /-- Answers to `Present` (R167). -/
  presents : List PresentOutcome
  /-- How many sleeps the host has already ended (R192). -/
  wakes : Nat
  /-- Termination inputs (R168). -/
  terminates : List Bool
  /-- How many free values have been drawn. -/
  count : Nat
  deriving DecidableEq, Repr

/-! ## The machine -/

/-- The state of the block. -/
structure State where
  /-- The parameters (R11); no step changes them. -/
  cfg : Config
  /-- The register banks `R[bank][id]` (R20), keyed by `regKey`. -/
  regs : Memory
  /-- The planes `P[0..3]` (R30), keyed by `planeKey`. -/
  planes : Memory
  /-- The framebuffer `FB` (R31), keyed by `pixelKey`. -/
  fb : Pixels
  /-- The renderer's registers (R25, R26). -/
  renderer : Renderer
  /-- The clients (R34, R76); `NCLIENTS` is the list's length, at least 1 from reset on (R11), and no step changes it. -/
  clients : List Client
  /-- The event history (R27), newest first, each event with the agent that performed it. -/
  history : List (Agent × Event)
  /-- The fault record `FAULT` (R33). -/
  fault : Option FaultRecord
  /-- The latest time reading drawn (R191: readings never decrease). -/
  now : Seconds
  /-- The model's own: the client whose command is being performed. -/
  issuer : Nat
  /-- The model's own: how many events the agent now at turn may perform (`none`: the whole instruction). -/
  grant : Option Nat
  /-- The model's own: the turns the schedule has fixed (R77); after them the choice is free. -/
  sched : List Turn
  /-- The model's own: the answers to draws. -/
  draws : Draws
  deriving DecidableEq, Repr

/-- Why no step happens. These are the stuck states of the spec, not instructions that stop: a fault of R231 is recorded
by a NEXT state, and only the step after it stops here. -/
inductive Fault where
  /-- `FAULT` is set: no agent has a step (R33, R230). Raised by every step and instruction; safe. -/
  | halted
  /-- The phase is TERMINATED: no agent has a step (R170). Raised by every step and instruction; safe. -/
  | terminated
  /-- No agent has an enabled step and none can get one: the phase is IDLE and every stream has ended or is truncated
  (R103). A renderer held without an answer is no such case: `step` then waits (R167). Raised by `step` only; safe. -/
  | noEnabledAgent
  deriving DecidableEq, Repr

/-- The instructions the model gives no meaning; there is none. -/
inductive Refusal where
  /-- An arm of `exec` that has no meaning yet; raised by no instruction of this model; safe. -/
  | notModelled (mnemonic : String)
  deriving DecidableEq, Repr

/-! ## Reset -/

/-- A client right after reset, about to issue the commands of `stream` (R38). -/
def Client.fresh (stream : List Word) : Client where
  stream := stream
  response := none
  blocked := false
  ops := []
  latch := Vector.replicate 4 0

/-- The renderer right after reset: phase IDLE; the other registers are unspecified by R38 and 0 here (DESIGN CHOICE,
assumption 3). -/
def Renderer.fresh : Renderer where
  phase := .idle
  y := 0
  col := 0
  rowBase := 0
  start := 0
  pitch := 0
  t0 := 0
  mode := 0
  hold := none
  ops := []
  latch := Vector.replicate 4 0

/-- No answer given yet. -/
def Draws.fresh : Draws where
  bytes := []
  orders := []
  ticks := []
  presents := []
  wakes := 0
  terminates := []
  count := 0

/-- The machine right after reset (R38) with parameters `cfg` and one client for each stream: `NCLIENTS` is
`1 + more.length`, so at least 1 (R11, R76). Register cells, plane bytes and pixels are unspecified draws in R38; listed
nowhere, they read as 0, the premise `ZeroInit` of R39 (DESIGN CHOICE, assumption 1). -/
def State.resetWith (cfg : Config) (first : List Word) (more : List (List Word)) : State where
  cfg := cfg
  regs := []
  planes := []
  fb := []
  renderer := Renderer.fresh
  clients := (first :: more).map Client.fresh
  history := []
  fault := none
  now := 0
  issuer := 0
  grant := none
  sched := []
  draws := Draws.fresh

/-- The machine right after reset, with the default parameters and one client that has no command yet (assumptions 4 and
11). -/
def State.reset : State := State.resetWith Config.default [] []

end Sys2Proof.Machine
end

