-- ==== Sys2Proof/Machine/Ops.lean ====
section
/-! DEFINITION. The named operations over the state: sparse storage in canonical form, register cells, plane bytes,
pixels, the event history, raising a fault (60_exceptions.md R230), responses, and the draws (00_scope.md R13). -/

namespace Sys2Proof.Machine

/-! ## Sparse storage

A list of (key, value) pairs, keys strictly rising, no value equal to `d`, the value an unlisted key reads as. -/

/-- The value at a key. -/
def cellsGet {α : Type} (d : α) : List (Nat × α) → Nat → α
  | [], _ => d
  | (k, v) :: t, a => if a = k then v else cellsGet d t a

/-- Puts a value at its place in the order, in place of the one listed there. -/
def cellsInsert {α : Type} (a : Nat) (v : α) : List (Nat × α) → List (Nat × α)
  | [] => [(a, v)]
  | (k, w) :: t => if a < k then (a, v) :: (k, w) :: t else if a = k then (a, v) :: t else (k, w) :: cellsInsert a v t

/-- Writes a value: the unlisted value removes the entry. -/
def cellsPut {α : Type} [DecidableEq α] (d : α) (a : Nat) (v : α) (m : List (Nat × α)) : List (Nat × α) :=
  if v = d then m.filter (fun c => c.1 ≠ a) else cellsInsert a v m

/-- The canonical form. -/
def cellsWf {α : Type} [DecidableEq α] (d : α) : List (Nat × α) → Bool
  | [] => true
  | (k, v) :: t => decide (v ≠ d) && t.all (fun c => decide (k < c.1)) && cellsWf d t

/-- What a register cell or plane byte that nothing has written reads as (assumption 1). -/
def unlistedByte : Byte := 0

/-- What a pixel that nothing has drawn reads as (assumption 3). -/
def unlistedPixel : RGB := ⟨0, 0, 0⟩

/-- The canonical form of register space and plane memory. -/
def Memory.wf (m : Memory) : Bool := cellsWf unlistedByte m

/-- The canonical form of a framebuffer. -/
def Pixels.wf (m : Pixels) : Bool := cellsWf unlistedPixel m

/-! ## Whether an agent may step -/

/-- No fault is recorded and the renderer has not terminated (R33, R170, R230). -/
def State.running (s : State) : Bool := s.fault.isNone && decide (s.renderer.phase ≠ .terminated)

/-! ## History and faults -/

/-- Appends an event to the history (R27). -/
def State.log (s : State) (ag : Agent) (e : Event) : State := { s with history := (ag, e) :: s.history }

/-- `raise F(info)` (R230): records the fault, appends its event, and so halts the machine. It saves no context and
goes to no handler, and nothing returns from it (R243, R244). -/
def State.raise (s : State) (ag : Agent) (f : FaultRecord) : State :=
  { s with fault := some f, history := (ag, .fault f) :: s.history }

/-! ## Register cells (R20, R64) -/

/-- A bank's number (R93). -/
def Bank.index : Bank → Nat
  | .gen => 0
  | .crt => 1
  | .gc => 2
  | .seq => 3

/-- The key of cell `R[bank][id]`. -/
def regKey (bank : Bank) (id : Byte) : Nat := Bank.index bank * 256 + id.toNat

/-- The value of `R[bank][id]`. -/
def State.reg (s : State) (bank : Bank) (id : Byte) : Byte := cellsGet unlistedByte s.regs (regKey bank id)

/-- `R[bank][id] <- v`, the cell alone. -/
def State.setCell (s : State) (bank : Bank) (id v : Byte) : State :=
  { s with regs := cellsPut unlistedByte (regKey bank id) v s.regs }

/-- Whether the code names a cell of the bank (R21). -/
def State.knows (s : State) (bank : Bank) (id : Byte) : Bool := (s.cfg.known bank).contains id

/-- The atomic read of a named register by an agent: a read event, no side effect (R64, R66). -/
def State.readReg (s : State) (ag : Agent) (bank : Bank) (id : Byte) : State :=
  s.log ag (.regRead bank id (s.reg bank id))

/-! ## Plane bytes (R30, R62) -/

/-- The key of plane byte `k:a`. -/
def planeKey (k : Fin 4) (a : Nat) : Nat := 4 * a + k.val

/-- The value of plane byte `k:a`. -/
def State.plane (s : State) (k : Fin 4) (a : Nat) : Byte := cellsGet unlistedByte s.planes (planeKey k a)

/-- `P[k][a] <- v`, the byte alone. -/
def State.setPlane (s : State) (k : Fin 4) (a : Nat) (v : Byte) : State :=
  { s with planes := cellsPut unlistedByte (planeKey k a) v s.planes }

/-- Whether offset `a` exists (R62). -/
def State.inBounds (s : State) (a : Nat) : Bool := decide (a < s.cfg.planeBytes)

/-- `MemRead(k:a, 1)` by an agent, then `use` of the byte read; out of bounds the access does not take place (R62). -/
def State.memRead (s : State) (ag : Agent) (k : Fin 4) (a : Nat) (use : Byte → State → State) : State :=
  if s.inBounds a then use (s.plane k a) (s.log ag (.planeRead k a (s.plane k a)))
  else s.raise ag (.boundsFault a)

/-- `MemWrite(k:a, 1, v)` by an agent; out of bounds the access does not take place (R62). -/
def State.memWrite (s : State) (ag : Agent) (k : Fin 4) (a : Nat) (v : Byte) : State :=
  if s.inBounds a then (s.setPlane k a v).log ag (.planeWrite k a v)
  else s.raise ag (.boundsFault a)

/-! ## Pixels (R31) -/

/-- The key of pixel `FB[y][x]`. -/
def pixelKey (y x : Nat) : Nat := displayW * y + x

/-- The pixel `FB[y][x]`. -/
def State.pixel (s : State) (y x : Nat) : RGB := cellsGet unlistedPixel s.fb (pixelKey y x)

/-- `FB[y][x] <- c`; there is no pixel outside the 350 × 640 array (R31; assumption 13). -/
def putPixel (y x : Nat) (c : RGB) (fb : Pixels) : Pixels :=
  if y < displayH ∧ x < displayW then cellsPut unlistedPixel (pixelKey y x) c fb else fb

/-! ## Clients (R34) -/

/-- Changes client `k`'s private state. -/
def State.modifyClient (s : State) (k : Nat) (f : Client → Client) : State :=
  { s with clients := s.clients.modify k f }

/-- Keeps a byte that client `k`'s command has read. -/
def State.latchByte (s : State) (k : Nat) (slot : Fin 4) (v : Byte) : State :=
  s.modifyClient k fun c => { c with latch := c.latch.set slot v }

/-- The response word a client reads: the byte in bits [7:0], the others 0 (R105). -/
def Client.responseWord (c : Client) : Option Word := c.response.map fun v => v.setWidth 32

/-! ## Draws (R13)

Each takes the oldest answer already given or, where there is none, the next free value. -/

/-- The state after one free value has been drawn. -/
def State.countDraw (s : State) : State := { s with draws := { s.draws with count := s.draws.count + 1 } }

/-- `draw anyByte` (R21). -/
def State.drawByte (s : State) : Byte × State :=
  match s.draws.bytes with
  | b :: bs => (b, { s with draws := { s.draws with bytes := bs } })
  | [] => (Config.freeByte s.draws.count, s.countDraw)

/-- An order for unordered events (R67, R68), as a number that `permute` reads. -/
def State.drawOrder (s : State) : Nat × State :=
  match s.draws.orders with
  | n :: ns => (n, { s with draws := { s.draws with orders := ns } })
  | [] => (Config.freePick s.draws.count, s.countDraw)

/-- A clock advance in seconds: any non-negative rational. -/
def tickSeconds (t : Nat × Nat) : Seconds := (t.1 : Rat) / ((t.2 : Rat) + 1)

/-- `draw now` (R191): a reading not below the one before. -/
def State.drawNow (s : State) : Seconds × State :=
  match s.draws.ticks with
  | t :: ts => (s.now + tickSeconds t, { s with draws := { s.draws with ticks := ts }, now := s.now + tickSeconds t })
  | [] =>
    (s.now + tickSeconds (Config.freeTick s.draws.count),
      { s.countDraw with now := s.now + tickSeconds (Config.freeTick s.draws.count) })

/-- `draw terminate` (R168). -/
def State.drawTerminate (s : State) : Bool × State :=
  match s.draws.terminates with
  | b :: bs => (b, { s with draws := { s.draws with terminates := bs } })
  | [] => (Config.freeTerminate s.draws.count, s.countDraw)

/-! ## Holds (R167, R192) -/

/-- The renderer is not held, or the host has answered what it waits for. -/
def State.answered (s : State) : Bool :=
  match s.renderer.hold with
  | none => true
  | some .present => !s.draws.presents.isEmpty
  | some .sleep => decide (0 < s.draws.wakes)

/-- The renderer is no longer held. -/
def State.unhold (s : State) : State := { s with renderer := { s.renderer with hold := none } }

/-- What the host's answer does: a present is accepted, or has failed (R167, R235); a sleep is over (R192). Without an
answer nothing changes; the renderer has no step then (`rendererCan`). -/
def State.liftHold (s : State) : State :=
  match s.renderer.hold with
  | none => s
  | some .sleep =>
    if s.draws.wakes = 0 then s else { s with draws := { s.draws with wakes := s.draws.wakes - 1 } }.unhold
  | some .present =>
    match s.draws.presents with
    | [] => s
    | .accepted :: os => { s with draws := { s.draws with presents := os } }.unhold
    | .failed :: os => { s with draws := { s.draws with presents := os } }.raise .renderer .outputSurfaceFault

/-- The host may answer the hold that waits for it, or not yet: one free value (R167, R192; assumption 18). It has no turn:
it is heard when a turn is chosen. -/
def State.hearHost (s : State) : State :=
  if s.answered then s
  else
    match s.renderer.hold with
    | none => s
    | some .present =>
      { s.countDraw with draws := { s.countDraw.draws with presents := (Config.freePresent s.draws.count).toList } }
    | some .sleep =>
      { s.countDraw with draws := { s.countDraw.draws with wakes := (Config.freeWake s.draws.count).toNat } }

end Sys2Proof.Machine
end

