-- ==== Sys2Proof/Machine/Operands.lean ====
section
/-! DEFINITION. How the operands of commands and steps are read and combined: the Map-Mask's plane enables, the planar
addressing check, chunk data, orders of unordered events, pitch and page start (41_addressing.md, 10_state.md R24, R28). -/

namespace Sys2Proof.Machine

/-- The plane indices 0 to 3 (R6). -/
def allPlanes : List (Fin 4) := [0, 1, 2, 3]

/-- `planeEnabled(m, k)` (R121): bit `k` of the Map-Mask is 1. -/
def planeEnabled (m : Byte) (k : Fin 4) : Bool := ((m >>> k.val) &&& 1#8) = 1#8

/-- The Map-Mask (R23). -/
def State.mapMask (s : State) : Byte := s.reg .seq s.cfg.idMapMask

/-- `planarMode()` on the bytes of Sequencer Memory Mode, Graphics-Controller Mode and Miscellaneous (R127). -/
def planarMode (memMode gcMode gcMisc : Byte) : Bool :=
  !memMode.getLsbD 3 && memMode.getLsbD 2 && !gcMode.getLsbD 4 && !gcMisc.getLsbD 1

/-- `pitch = 2 * zext(o)` (R24). -/
def pitchOf (o : Byte) : Nat := 2 * o.toNat

/-- `start = (zext_16(hi) << 8) | zext_16(lo)` (R28). -/
def startOf (hi lo : Byte) : Nat := (((hi.setWidth 16) <<< 8) ||| (lo.setWidth 16)).toNat

/-- The offset COLUMN reads (R164). -/
def State.columnOffset (s : State) : Nat := s.renderer.rowBase + s.renderer.col

/-- One order of a list's events for each number, every order for some number (R67, R68): the first event is put at
place `n mod length` of an order of the rest. -/
def permute {α : Type} : Nat → List α → List α
  | _, [] => []
  | n, x :: xs => (permute (n / (xs.length + 1)) xs).insertIdx (n % (xs.length + 1)) x

/-- A chunk's first offset out of bounds (R122): `max(O, PLANE_BYTES)`. -/
def chunkFault (offset planeBytes : Nat) : FaultRecord := .boundsFault (max offset planeBytes)

end Sys2Proof.Machine
end

