-- ==== Sys2Proof/Machine/Compositor.lean ====
section
/-! DEFINITION. The plane compositor, the palette LUT and the RGB converter (42_compositor_palette.md R140 to R149). -/

namespace Sys2Proof.Machine

/-- The lanes of a byte-column, leftmost first (R141). -/
def lanes : List (Fin 8) := [0, 1, 2, 3, 4, 5, 6, 7]

/-- Bit `7-b` of a plane byte as a 4-bit number (R140). -/
def laneBit (q : Byte) (b : Fin 8) : BitVec 4 := ((q >>> (7 - b.val)) &&& 1#8).setWidth 4

/-- `pixelIndex(b0, b1, b2, b3, b)` (R140). -/
def pixelIndex (q0 q1 q2 q3 : Byte) (b : Fin 8) : BitVec 4 :=
  laneBit q0 b ||| (laneBit q1 b <<< 1) ||| (laneBit q2 b <<< 2) ||| (laneBit q3 b <<< 3)

/-- `composite(b0, b1, b2, b3)`: the eight indices, lane 0 first (R141). -/
def composite (q0 q1 q2 q3 : Byte) : List (BitVec 4) := lanes.map (pixelIndex q0 q1 q2 q3)

/-- `rgb(i) = PALETTE[i]` (R147). -/
def rgb (c : Config) (i : BitVec 4) : RGB := c.palette.get i.toFin

/-- The colour of lane `b` of four plane bytes (R149). -/
def lanePixel (c : Config) (q0 q1 q2 q3 : Byte) (b : Fin 8) : RGB := rgb c (pixelIndex q0 q1 q2 q3 b)

/-- Writes the eight pixels of byte-column `col` of scanline `y` (R148, R164). -/
def paintColumn (c : Config) (y col : Nat) (q : Latch) (fb : Pixels) : Pixels :=
  lanes.foldl (fun m b => putPixel y (8 * col + b.val) (lanePixel c q[0] q[1] q[2] q[3] b) m) fb

end Sys2Proof.Machine
end

