-- ==== Sys2Proof/Machine/Flags.lean ====
section
/-! DEFINITION. The block's only flags, VR and DE in the status byte (10_state.md R22, R36), and the four primitives that
write them, each one atomic read-modify-write event of the renderer (45_status_signals.md R200 to R203). -/

namespace Sys2Proof.Machine

/-- The status byte `R[GEN][ID_STATUS]` (R22). -/
def State.status (s : State) : Byte := s.reg .gen s.cfg.idStatus

/-- The mask of a signal (R22). -/
def Signal.mask (c : Config) : Signal → Byte
  | .vr => c.vrMask
  | .de => c.deMask

/-- The status byte with a signal's bit set or cleared, every other bit preserved (R69). -/
def signalByte (c : Config) (sig : Signal) (on : Bool) (b : Byte) : Byte :=
  if on then b ||| Signal.mask c sig else b &&& ~~~ Signal.mask c sig

/-- The atomic update of one signal, with its event (R69, R27). -/
def State.updateSignal (s : State) (sig : Signal) (on : Bool) : State :=
  (s.setCell .gen s.cfg.idStatus (signalByte s.cfg sig on s.status)).log .renderer (.statusUpdate sig on)

/-- SetVR (R200). -/
def State.setVR (s : State) : State := s.updateSignal .vr true

/-- ClrVR (R201). -/
def State.clrVR (s : State) : State := s.updateSignal .vr false

/-- SetDE (R202). -/
def State.setDE (s : State) : State := s.updateSignal .de true

/-- ClrDE (R203). -/
def State.clrDE (s : State) : State := s.updateSignal .de false

/-- VR is active (R22, R206). -/
def State.vr (s : State) : Bool := decide (s.status &&& s.cfg.vrMask ≠ 0)

/-- DE is active (R22, R206). -/
def State.de (s : State) : Bool := decide (s.status &&& s.cfg.deMask ≠ 0)

end Sys2Proof.Machine
end

