-- ==== Sys2Proof/Machine/Events.lean ====
section
/-! DEFINITION. What each atomic event of a command or a renderer step does (20_memory.md R64), and how an agent performs
the events of one instruction: in order, each its own event, up to its turn's grant; what is left stays pending, so that
other agents' events can fall between any two (R67, R68, R77). -/

namespace Sys2Proof.Machine

/-! ## Clients -/

/-- GET_REG's event (R210): a known cell's value or, for an unknown code, any byte (R21). -/
def doGetReg (k : Nat) (bank : Bank) (id : Byte) (s : State) : State :=
  if s.knows bank id then (s.readReg (.client k) bank id).latchByte k 0 (s.reg bank id)
  else (s.drawByte.2.log (.client k) (.regRead bank id s.drawByte.1)).latchByte k 0 s.drawByte.1

/-- `respond v` (R105), an event of its own: a fault or a termination may precede it, and the byte read is then never
returned (R13, R230, R170; DEDUCED, assumption 25). -/
def doRespond (k : Nat) (s : State) : State := s.modifyClient k fun c => { c with response := some c.latch[0] }

/-- SET_REG's event (R211): the status byte is not the client's (R212); an unknown code changes no cell (R21). -/
def doSetReg (k : Nat) (bank : Bank) (id v : Byte) (s : State) : State :=
  if bank = .gen ∧ id = s.cfg.idStatus then s.raise (.client k) (.usageFault .statusWrite)
  else if s.knows bank id then (s.setCell bank id v).log (.client k) (.regWrite bank id v)
  else s.log (.client k) (.regWrite bank id v)

/-- READ_PLANE's bounds check and read (R123); the response is the next event, `doRespond` (assumption 25). -/
def doReadPlane (k : Nat) (p : Fin 4) (a : Nat) (s : State) : State :=
  s.memRead (.client k) p a fun v t => t.latchByte k 0 v

/-- The atomic block of R120 for one plane: read the Map-Mask, write the plane if its bit is set (R67, R121). -/
def doWritePlane (k : Nat) (p : Fin 4) (a : Nat) (v : Byte) (s : State) : State :=
  if planeEnabled s.mapMask p then (s.readReg (.client k) .seq s.cfg.idMapMask).memWrite (.client k) p a v
  else s.readReg (.client k) .seq s.cfg.idMapMask

/-- One mode register read of R126, kept in a latch slot. -/
def doReadMode (k : Nat) (slot : Fin 4) (bank : Bank) (id : Byte) (s : State) : State :=
  (s.readReg (.client k) bank id).latchByte k slot (s.reg bank id)

/-- Whether the mode bytes client `k` has read say planar (R127). -/
def State.clientPlanar (s : State) (k : Nat) : Bool :=
  match s.clients[k]? with
  | some c => planarMode c.latch[0] c.latch[1] c.latch[2]
  | none => false

/-- The check of R126. -/
def doCheckPlanar (k : Nat) (a : Nat) (s : State) : State :=
  if s.clientPlanar k then s else s.raise (.client k) (.addressingModeFault a)

/-- The start of the frame loop (R213): the client becomes the renderer (R217). -/
def State.startFrames (s : State) (k : Nat) (mode : Byte) : State :=
  { s with renderer := { s.renderer with mode := mode, phase := .frameStart } }.modifyClient k
    fun c => { c with blocked := true }

/-- START_RENDERING's first check (R213, R214). -/
def doCheckPhase (k : Nat) (s : State) : State :=
  if s.renderer.phase ≠ .idle then s.raise (.client k) (.usageFault .alreadyRendering) else s

/-- START_RENDERING's check of the mode (R213, R215, R233). -/
def doCheckMode (k : Nat) (mode : Byte) (s : State) : State :=
  if mode ≠ s.cfg.supportedMode then s.raise (.client k) (.unsupportedMode mode) else s

/-- START_RENDERING's atomic read of CRT Offset (R213, R64). -/
def doReadPitch (k : Nat) (s : State) : State :=
  (s.readReg (.client k) .crt s.cfg.idCrtOffset).latchByte k 0 (s.reg .crt s.cfg.idCrtOffset)

/-- The CRT Offset client `k` has read is 0. -/
def State.readZeroPitch (s : State) (k : Nat) : Bool :=
  match s.clients[k]? with
  | some c => decide (c.latch[0] = 0)
  | none => false

/-- START_RENDERING's last statements (R213): the check of the byte read, and the start. Where another client has started
the renderer since the first check, which R76's one renderer excludes, the fault is AlreadyRendering (DEDUCED, assumption
12). -/
def doStart (k : Nat) (mode : Byte) (s : State) : State :=
  if s.readZeroPitch k then s.raise (.client k) (.nonPositivePitch 0)
  else if s.renderer.phase ≠ .idle then s.raise (.client k) (.usageFault .alreadyRendering)
  else s.startFrames k mode

/-- One event of client `k`'s command. -/
def performClient (k : Nat) (op : ClientOp) (s : State) : State :=
  match op with
  | .getReg bank id => doGetReg k bank id s
  | .setReg bank id v => doSetReg k bank id v s
  | .readPlane p a => doReadPlane k p a s
  | .writePlane p a v => doWritePlane k p a v s
  | .readMode slot bank id => doReadMode k slot bank id s
  | .checkPlanar a => doCheckPlanar k a s
  | .respond => doRespond k s
  | .checkPhase => doCheckPhase k s
  | .checkMode mode => doCheckMode k mode s
  | .readPitch => doReadPitch k s
  | .start mode => doStart k mode s
  | .raise f => s.raise (.client k) f

/-! ## Renderer -/

/-- Changes the renderer's registers. -/
def State.modifyRenderer (s : State) (f : Renderer → Renderer) : State := { s with renderer := f s.renderer }

/-- `phase <- p` (R25). -/
def State.enter (s : State) (p : Phase) : State := s.modifyRenderer fun r => { r with phase := p }

/-- `t0 <- draw now` (R161). -/
def doReadTime (s : State) : State := s.drawNow.2.modifyRenderer fun r => { r with t0 := s.drawNow.1 }

/-- A register read of FRAME_START (R161). -/
def doLatchReg (slot : Fin 4) (bank : Bank) (id : Byte) (s : State) : State :=
  (s.readReg .renderer bank id).modifyRenderer fun r => { r with latch := r.latch.set slot (s.reg bank id) }

/-- FRAME_START's pitch check and latches (R161): slot 0 holds `o`, slot 1 `hi`, slot 2 `lo`. -/
def doLatchFrame (s : State) : State :=
  if s.renderer.latch[0] = 0 then s.raise .renderer (.nonPositivePitch 0)
  else
    s.modifyRenderer fun r =>
      { r with
        pitch := pitchOf r.latch[0], start := startOf r.latch[1] r.latch[2], y := 0, col := 0,
        rowBase := startOf r.latch[1] r.latch[2], phase := .lineBegin }

/-- LINE_BEGIN's private statements (R163). -/
def doEnterColumns (s : State) : State := s.modifyRenderer fun r => { r with col := 0, phase := .column }

/-- COLUMN's read of one plane (R164). -/
def doLatchPlane (p : Fin 4) (a : Nat) (s : State) : State :=
  s.memRead .renderer p a fun v t => t.modifyRenderer fun r => { r with latch := r.latch.set p v }

/-- COLUMN's eight pixels, `col <- col + 1`, and LINE_END after the last column (R164). -/
def doDrawColumn (s : State) : State :=
  { s with
    fb := paintColumn s.cfg s.renderer.y s.renderer.col s.renderer.latch s.fb
    renderer :=
      { s.renderer with
        col := s.renderer.col + 1
        phase := if s.renderer.col + 1 = cols then .lineEnd else s.renderer.phase } }

/-- LINE_END's advance of the row base (R165, R162). -/
def doAdvanceRow (s : State) : State := s.modifyRenderer fun r => { r with rowBase := r.rowBase + r.pitch }

/-- LINE_END's next scanline or FRAME_END (R165). -/
def doNextLine (s : State) : State :=
  s.modifyRenderer fun r =>
    { r with y := r.y + 1, phase := if r.y + 1 = displayH then .frameEnd else .lineBegin }

/-- `emit Present(copy of FB)`; the renderer is held until the host answers (R166, R167). -/
def doPresent (s : State) : State :=
  (s.log .renderer (.present s.fb)).modifyRenderer fun r => { r with hold := some .present }

/-- POLL's sample: terminate, or go on to PACE (R168, R170). -/
def doPoll (s : State) : State :=
  s.drawTerminate.2.enter (if s.drawTerminate.1 then .terminated else .pace)

/-- PACE's duration `d = t1 - t0`, `t1` a fresh reading (R190, R191). -/
def State.frameTime (s : State) : Seconds := s.drawNow.1 - s.renderer.t0

/-- PACE's reading and its Sleep, which holds the renderer, or its Overrun, which does not (R190, R192 to R194). -/
def doPace (s : State) : State :=
  if s.frameTime < frameBudget then
    (s.drawNow.2.log .renderer (.sleep (frameBudget - s.frameTime))).modifyRenderer
      fun r => { r with hold := some .sleep }
  else s.drawNow.2.log .renderer (.overrun (s.frameTime - frameBudget))

/-- One event of a renderer step. -/
def performRenderer (op : RendererOp) (s : State) : State :=
  match op with
  | .readTime => doReadTime s
  | .signal .vr true => s.setVR
  | .signal .vr false => s.clrVR
  | .signal .de true => s.setDE
  | .signal .de false => s.clrDE
  | .latchReg slot bank id => doLatchReg slot bank id s
  | .latchFrame => doLatchFrame s
  | .enterColumns => doEnterColumns s
  | .latchPlane p a => doLatchPlane p a s
  | .drawColumn => doDrawColumn s
  | .advanceRow => doAdvanceRow s
  | .nextLine => doNextLine s
  | .present => doPresent s
  | .awaitHost => s.liftHold
  | .enter p => s.enter p
  | .poll => doPoll s
  | .pace => doPace s
  | .raise f => s.raise .renderer f

/-- Whether the renderer can perform an event now: only waiting for the host's answer can be impossible (R167, R192). -/
def rendererCan (op : RendererOp) (s : State) : Bool :=
  match op with
  | .awaitHost => s.answered
  | .readTime | .signal _ _ | .latchReg _ _ _ | .latchFrame | .enterColumns | .latchPlane _ _ | .drawColumn
  | .advanceRow | .nextLine | .present | .enter _ | .poll | .pace | .raise _ => true

/-! ## Performing an instruction's events -/

/-- Performs events in order: all of them, or as many as the grant allows, or up to one that must wait; `keep` stores
those left (none of them, at the end). Once the machine has halted the rest is dropped: it never happens (R230, R170). -/
def runEvents {α : Type} (can : α → State → Bool) (perform : α → State → State) (keep : List α → State → State) :
    List α → Option Nat → State → State
  | [], _, s => keep [] s
  | op :: rest, g, s =>
    if s.running then
      if g = some 0 then keep (op :: rest) s
      else if can op s then runEvents can perform keep rest (g.map (· - 1)) (perform op s)
      else keep (op :: rest) s
    else keep [] s

/-- Keeps client `k`'s pending events. -/
def keepClient (k : Nat) (ops : List ClientOp) (s : State) : State := s.modifyClient k fun c => { c with ops := ops }

/-- Keeps the renderer's pending events. -/
def keepRenderer (ops : List RendererOp) (s : State) : State := s.modifyRenderer fun r => { r with ops := ops }

/-- Client `k` performs events of its command. -/
def runClient (k : Nat) (ops : List ClientOp) (g : Option Nat) (s : State) : State :=
  runEvents (fun _ _ => true) (performClient k) (keepClient k) ops g s

/-- The renderer performs events of its step. -/
def runRenderer (ops : List RendererOp) (g : Option Nat) (s : State) : State :=
  runEvents rendererCan performRenderer keepRenderer ops g s

/-- A command of the client at turn: once `FAULT` is set or the renderer has terminated, no agent has a step (R33, R170);
else its events are performed. -/
def issueCommand (plan : List ClientOp × State) (s : State) : Host.Outcome State Fault Refusal :=
  if s.fault.isSome then .fault .halted
  else if s.renderer.phase = .terminated then .fault .terminated
  else .next (runClient s.issuer plan.1 s.grant plan.2)

/-- A step of the renderer, under the same condition. -/
def issueStep (plan : List RendererOp × State) (s : State) : Host.Outcome State Fault Refusal :=
  if s.fault.isSome then .fault .halted
  else if s.renderer.phase = .terminated then .fault .terminated
  else .next (runRenderer plan.1 s.grant plan.2)

end Sys2Proof.Machine
end

