-- ==== Sys2Proof/Machine/Pacer.lean ====
section
/-! DEFINITION. The frame pacer's step PACE (44_frame_pacer.md R190 to R194). -/

namespace Sys2Proof.Machine

/-- PACE (R190): Sleep or Overrun, the wait for the end of a sleep (R192), and FRAME_START. -/
def execPace (s : State) : Host.Outcome State Fault Refusal :=
  issueStep ([.pace, .awaitHost, .enter .frameStart], s) s

end Sys2Proof.Machine
end

