-- ==== Sys2Proof/Machine/Plane.lean ====
section
/-! DEFINITION. READ_PLANE, WRITE_BYTE, WRITE_CHUNK and WRITE_FULL (41_addressing.md R120 to R128). A write's events are
planned first, in an order the draws choose, and then performed. -/

namespace Sys2Proof.Machine

/-- The three mode register reads of R126 in some order, then the check. -/
def modeEvents (c : Config) (order a : Nat) : List ClientOp :=
  permute order [.readMode 0 .seq c.idSeqMemMode, .readMode 1 .gc c.idGcMode, .readMode 2 .gc c.idGcMisc]
    ++ [.checkPlanar a]

/-- The four plane events of R120 in some order (R67). -/
def planeEvents (order a : Nat) (v : Byte) : List ClientOp :=
  permute order (allPlanes.map fun k => .writePlane k a v)

/-- The events of `WRITE_BYTE(a, v)` (R120): the bounds check, the policy's check (R126), the four planes. -/
def planWriteByte (a : Nat) (v : Byte) (s : State) : List ClientOp × State :=
  if s.inBounds a then
    if s.cfg.addrMode = .ignoreModeBits then (planeEvents s.drawOrder.1 a v, s.drawOrder.2)
    else
      (modeEvents s.cfg s.drawOrder.1 a ++ planeEvents s.drawOrder.2.drawOrder.1 a v, s.drawOrder.2.drawOrder.2)
  else ([.raise (.boundsFault a)], s)

/-- The events of one WRITE_BYTE after another, at ascending offsets from `a` (R122). -/
def planBytes : Nat → List Byte → State → List ClientOp × State
  | _, [], s => ([], s)
  | a, v :: vs, s =>
    ((planWriteByte a v s).1 ++ (planBytes (a + 1) vs (planWriteByte a v s).2).1,
      (planBytes (a + 1) vs (planWriteByte a v s).2).2)

/-- The events of `WRITE_CHUNK(O, N, d)` (R122): nothing for N = 0, else the check of the whole range, then the bytes. -/
def planChunk (a : Nat) (bytes : List Byte) (s : State) : List ClientOp × State :=
  if bytes = [] then ([], s)
  else if a + bytes.length ≤ s.cfg.planeBytes then planBytes a bytes s
  else ([.raise (chunkFault a s.cfg.planeBytes)], s)

/-- READ_PLANE plane, offset (R123): the read, then the response. -/
def execReadPlane (plane : Fin 4) (offset : BitVec 16) (s : State) : Host.Outcome State Fault Refusal :=
  issueCommand ([.readPlane plane offset.toNat, .respond], s) s

/-- WRITE_BYTE offset, value (R120). -/
def execWriteByte (offset : BitVec 16) (value : Byte) (s : State) : Host.Outcome State Fault Refusal :=
  issueCommand (planWriteByte offset.toNat value s) s

/-- WRITE_CHUNK offset, bytes (R122). -/
def execWriteChunk (offset : BitVec 16) (bytes : List Byte) (s : State) : Host.Outcome State Fault Refusal :=
  issueCommand (planChunk offset.toNat bytes s) s

/-- WRITE_FULL: its effect is the fault `Refused(WRITE_FULL)`, whatever its other bits (R125, R238). -/
def execWriteFull (_rest : BitVec 28) (s : State) : Host.Outcome State Fault Refusal :=
  issueCommand ([.raise (.refused "WRITE_FULL")], s) s

end Sys2Proof.Machine
end

