-- ==== Sys2Proof/Machine/Register.lean ====
section
/-! DEFINITION. GET_REG, SET_REG and START_RENDERING (46_register_interface.md R210 to R217) as lists of events. -/

namespace Sys2Proof.Machine

/-- GET_REG bank, id (R210): the read, then the response. -/
def execGetReg (bank : Bank) (id : Byte) (s : State) : Host.Outcome State Fault Refusal :=
  issueCommand ([.getReg bank id, .respond], s) s

/-- SET_REG bank, id, value (R211, R212). -/
def execSetReg (bank : Bank) (id value : Byte) (s : State) : Host.Outcome State Fault Refusal :=
  issueCommand ([.setReg bank id value], s) s

/-- START_RENDERING mode (R213, R214, R215): its statements in R213's order, other agents' events between any two. -/
def execStartRendering (mode : Byte) (s : State) : Host.Outcome State Fault Refusal :=
  issueCommand ([.checkPhase, .checkMode mode, .readPitch, .start mode], s) s

end Sys2Proof.Machine
end

