-- ==== Sys2Proof/Machine/Renderer.lean ====
section
/-! DEFINITION. The frame renderer's steps FRAME_START, LINE_BEGIN, COLUMN, LINE_END, FRAME_END and POLL
(43_frame_renderer.md R160 to R173). -/

namespace Sys2Proof.Machine

/-- The three register reads of FRAME_START in some order (R161). -/
def frameReads (c : Config) (order : Nat) : List RendererOp :=
  permute order [.latchReg 0 .crt c.idCrtOffset, .latchReg 1 .crt c.idCrtStartHi, .latchReg 2 .crt c.idCrtStartLo]

/-- The events of FRAME_START (R161): time reading, ClrVR, three reads, the latches. -/
def planFrameStart (s : State) : List RendererOp × State :=
  ([.readTime, .signal .vr false] ++ frameReads s.cfg s.drawOrder.1 ++ [.latchFrame], s.drawOrder.2)

/-- COLUMN's four plane reads in some order (R68, R164). -/
def columnReads (order a : Nat) : List RendererOp := permute order (allPlanes.map fun k => .latchPlane k a)

/-- The events of COLUMN (R164): the bounds check, the four reads, the pixels. -/
def planColumn (s : State) : List RendererOp × State :=
  if s.inBounds s.columnOffset then
    (columnReads s.drawOrder.1 s.columnOffset ++ [.drawColumn], s.drawOrder.2)
  else ([.raise (.boundsFault s.columnOffset)], s)

/-- FRAME_START (R161). -/
def execFrameStart (s : State) : Host.Outcome State Fault Refusal := issueStep (planFrameStart s) s

/-- LINE_BEGIN (R163). -/
def execLineBegin (s : State) : Host.Outcome State Fault Refusal :=
  issueStep ([.signal .de false, .enterColumns], s) s

/-- COLUMN (R164). -/
def execColumn (s : State) : Host.Outcome State Fault Refusal := issueStep (planColumn s) s

/-- LINE_END (R165). -/
def execLineEnd (s : State) : Host.Outcome State Fault Refusal :=
  issueStep ([.advanceRow, .signal .de true, .nextLine], s) s

/-- FRAME_END (R166, R167): SetVR, Present, which begins a hold, what the host's answer does, and POLL. -/
def execFrameEnd (s : State) : Host.Outcome State Fault Refusal :=
  issueStep ([.signal .vr true, .present, .awaitHost, .enter .poll], s) s

/-- POLL (R168, R170). -/
def execPoll (s : State) : Host.Outcome State Fault Refusal := issueStep ([.poll], s) s

end Sys2Proof.Machine
end

