-- ==== Sys2Proof/Machine/Dispatch.lean ====
section
/-! DEFINITION. One arm per instruction. -/

namespace Sys2Proof.Machine

def exec (i : Instr) (s : State) : Host.Outcome State Fault Refusal :=
  match i with
  | .getReg bank id => Sys2Proof.Machine.execGetReg bank id s
  | .setReg bank id value => Sys2Proof.Machine.execSetReg bank id value s
  | .readPlane plane offset => Sys2Proof.Machine.execReadPlane plane offset s
  | .writeByte offset value => Sys2Proof.Machine.execWriteByte offset value s
  | .writeChunk offset bytes => Sys2Proof.Machine.execWriteChunk offset bytes s
  | .startRendering mode => Sys2Proof.Machine.execStartRendering mode s
  | .writeFull rest => Sys2Proof.Machine.execWriteFull rest s
  | .frameStart => Sys2Proof.Machine.execFrameStart s
  | .lineBegin => Sys2Proof.Machine.execLineBegin s
  | .column => Sys2Proof.Machine.execColumn s
  | .lineEnd => Sys2Proof.Machine.execLineEnd s
  | .frameEnd => Sys2Proof.Machine.execFrameEnd s
  | .poll => Sys2Proof.Machine.execPoll s
  | .pace => Sys2Proof.Machine.execPace s

end Sys2Proof.Machine
end

