-- ==== Sys2Proof/WellFormed.lean ====
section
/-! DEFINITION. Which instruction terms have an encoding: every field but a chunk's length is bounded by its type; the
count of a WRITE_CHUNK must fit its 32-bit word (30_encoding.md R98). -/

namespace Sys2Proof

/-- The instruction has an encoding. -/
def Instr.wf : Instr → Bool
  | .writeChunk _ bytes => decide (bytes.length < 2 ^ 32)
  | .getReg _ _ | .setReg _ _ _ | .readPlane _ _ | .writeByte _ _ | .startRendering _ | .writeFull _ => true
  | .frameStart | .lineBegin | .column | .lineEnd | .frameEnd | .poll | .pace => true

end Sys2Proof
end

