-- ==== Sys2Proof/Decode.lean ====
section
/-! DEFINITION. The decoder and the encoder of 30_encoding.md: client commands as 32-bit words (R91 to R103), renderer
steps as 4-bit phase values (R25, R104). Decoding is total; a word that spells no command is rejected by name. -/

namespace Sys2Proof

/-! ## Fields -/

/-- OP, bits [31:28] (R91). -/
def opField (w : Word) : BitVec 4 := w.extractLsb' 28 4

/-- SEL, bits [27:26]. -/
def selField (w : Word) : BitVec 2 := w.extractLsb' 26 2

/-- RSV, bits [25:24]. -/
def rsvField (w : Word) : BitVec 2 := w.extractLsb' 24 2

/-- DATA, bits [23:16]. -/
def dataField (w : Word) : Byte := w.extractLsb' 16 8

/-- ADDR, bits [15:0]. -/
def addrField (w : Word) : BitVec 16 := w.extractLsb' 0 16

/-- ADDR[15:8], which GET_REG and SET_REG require to be 0. -/
def addrHiField (w : Word) : Byte := w.extractLsb' 8 8

/-- ADDR[7:0], the register code. -/
def idField (w : Word) : Byte := w.extractLsb' 0 8

/-- SEL as a bank (R93). -/
def bankOfSel (sel : BitVec 2) : Bank :=
  match sel.toNat with
  | 0 => .gen
  | 1 => .crt
  | 2 => .gc
  | _ => .seq

/-- A bank's SEL (R93). -/
def Bank.sel : Bank → BitVec 2
  | .gen => 0
  | .crt => 1
  | .gc => 2
  | .seq => 3

/-! ## Chunk data (R98) -/

/-- Byte `i` of a data word: bits [8i+7 : 8i] (R98). -/
def wordByte (w : Word) (i : Nat) : Byte := w.extractLsb' (8 * i) 8

/-- The outcome of reading a chunk's data words. -/
inductive ChunkData where
  /-- The `n` bytes, and the words after them. -/
  | bytes (bs : List Byte) (rest : List Word)
  /-- The last data word has a nonzero padding byte (R102). -/
  | badPadding
  /-- The stream ends before the last data word (R103). -/
  | short
  deriving DecidableEq, Repr

/-- One more word's bytes in front of a chunk's data. -/
def ChunkData.cons (front : List Byte) : ChunkData → ChunkData
  | .bytes bs rest => .bytes (front ++ bs) rest
  | .badPadding => .badPadding
  | .short => .short

/-- Reads `n` bytes from data words, four to a word, little-endian, the padding of the last word 0 (R98, R102). -/
def takeChunk : Nat → List Word → ChunkData
  | n, [] => if n = 0 then .bytes [] [] else .short
  | n, w :: ws =>
    if n = 0 then .bytes [] (w :: ws)
    else if 4 ≤ n then
      (takeChunk (n - 4) ws).cons [wordByte w 0, wordByte w 1, wordByte w 2, wordByte w 3]
    else if w >>> (8 * n) = 0 then .bytes ((List.range n).map (wordByte w)) ws
    else .badPadding

/-! ## Commands -/

/-- What a client's command stream begins with. -/
inductive Decoded where
  /-- A command, and the words after it. -/
  | command (i : Instr) (rest : List Word)
  /-- The word spells no command: `IllegalCommand(w)` (R101, R102). -/
  | illegal (w : Word)
  /-- The stream ends inside a WRITE_CHUNK: the client is stuck (R103). -/
  | truncated
  /-- The stream has no further word. -/
  | ended
  deriving DecidableEq, Repr

/-- Decodes the first command of a stream: OP first, then the must-be-zero fields of R91, R94 to R100. -/
def decodeWords : List Word → Decoded
  | [] => .ended
  | w :: rest =>
    match (opField w).toNat with
    | 1 =>
      if rsvField w = 0 ∧ dataField w = 0 ∧ addrHiField w = 0 then
        .command (.getReg (bankOfSel (selField w)) (idField w)) rest
      else .illegal w
    | 2 =>
      if rsvField w = 0 ∧ addrHiField w = 0 then
        .command (.setReg (bankOfSel (selField w)) (idField w) (dataField w)) rest
      else .illegal w
    | 3 =>
      if rsvField w = 0 ∧ dataField w = 0 then .command (.readPlane (selField w).toFin (addrField w)) rest
      else .illegal w
    | 4 =>
      if selField w = 0 ∧ rsvField w = 0 then .command (.writeByte (addrField w) (dataField w)) rest
      else .illegal w
    | 5 =>
      if selField w = 0 ∧ rsvField w = 0 ∧ dataField w = 0 then
        match rest with
        | [] => .truncated
        | n :: data =>
          match takeChunk n.toNat data with
          | .bytes bs after => .command (.writeChunk (addrField w) bs) after
          | .badPadding => .illegal w
          | .short => .truncated
      else .illegal w
    | 6 =>
      if selField w = 0 ∧ rsvField w = 0 ∧ addrField w = 0 then .command (.startRendering (dataField w)) rest
      else .illegal w
    | 7 => .command (.writeFull (w.extractLsb' 0 28)) rest
    | _ => .illegal w

/-! ## Renderer steps (R25, R104) -/

/-- The phase register's 4-bit code (R25). -/
def Phase.code : Phase → BitVec 4
  | .idle => 0x0
  | .frameStart => 0x1
  | .lineBegin => 0x2
  | .column => 0x3
  | .lineEnd => 0x4
  | .frameEnd => 0x5
  | .poll => 0x6
  | .pace => 0x7
  | .terminated => 0x8

/-- The phase of a code; codes 0x9 to 0xF are no phase (R25). -/
def Phase.ofCode (c : BitVec 4) : Option Phase :=
  match c.toNat with
  | 0 => some .idle
  | 1 => some .frameStart
  | 2 => some .lineBegin
  | 3 => some .column
  | 4 => some .lineEnd
  | 5 => some .frameEnd
  | 6 => some .poll
  | 7 => some .pace
  | 8 => some .terminated
  | _ => none

/-- The renderer step a phase value selects; IDLE, TERMINATED and the codes above have none (R104). -/
def decodePhase (c : BitVec 4) : Option Instr :=
  match c.toNat with
  | 1 => some .frameStart
  | 2 => some .lineBegin
  | 3 => some .column
  | 4 => some .lineEnd
  | 5 => some .frameEnd
  | 6 => some .poll
  | 7 => some .pace
  | _ => none

/-! ## Encoder -/

/-- An instruction's encoding: a client command's words, or a renderer step's phase value. -/
inductive Code where
  | words (ws : List Word)
  | phase (c : BitVec 4)
  deriving DecidableEq, Repr

/-- `OP || SEL || RSV=00 || DATA || ADDR` (R91, R109). -/
def commandWord (op : BitVec 4) (sel : BitVec 2) (data : Byte) (addr : BitVec 16) : Word :=
  op ++ sel ++ 0#2 ++ data ++ addr

/-- Packs a chunk's bytes four to a word, little-endian, padding 0 (R98). -/
def packBytes : List Byte → List Word
  | [] => []
  | [b0] => [0#8 ++ 0#8 ++ 0#8 ++ b0]
  | [b0, b1] => [0#8 ++ 0#8 ++ b1 ++ b0]
  | [b0, b1, b2] => [0#8 ++ b2 ++ b1 ++ b0]
  | b0 :: b1 :: b2 :: b3 :: bs => (b3 ++ b2 ++ b1 ++ b0) :: packBytes bs

/-- The encoding of an instruction (R94 to R100, R104). -/
def encode : Instr → Code
  | .getReg bank id => .words [commandWord 1 bank.sel 0 (0#8 ++ id)]
  | .setReg bank id v => .words [commandWord 2 bank.sel v (0#8 ++ id)]
  | .readPlane k a => .words [commandWord 3 (BitVec.ofFin k) 0 a]
  | .writeByte a v => .words [commandWord 4 0 v a]
  | .writeChunk a bs => .words (commandWord 5 0 0 a :: BitVec.ofNat 32 bs.length :: packBytes bs)
  | .startRendering mode => .words [commandWord 6 0 mode 0]
  | .writeFull rest => .words [7#4 ++ rest]
  | .frameStart => .phase 0x1
  | .lineBegin => .phase 0x2
  | .column => .phase 0x3
  | .lineEnd => .phase 0x4
  | .frameEnd => .phase 0x5
  | .poll => .phase 0x6
  | .pace => .phase 0x7

/-- Decodes one whole encoding: a stream that holds exactly one command, or a phase value. -/
def decode : Code → Option Instr
  | .words ws =>
    match decodeWords ws with
    | .command i [] => some i
    | .command _ (_ :: _) | .illegal _ | .truncated | .ended => none
  | .phase c => decodePhase c

/-! ## The opcode table's words -/

/-- The words a command word stands for when the table gives only its first: a WRITE_CHUNK's count word is 0. -/
def tableWords (w : Nat) : List Word :=
  let w0 := BitVec.ofNat 32 w
  if opField w0 = 5 then [w0, 0] else [w0]

/-- The instruction read from a row of the opcode table: a PHASE row has 4 bits (one byte), a command row 32. -/
def decodeTableWord (nbits w : Nat) : Option Instr :=
  if nbits ≤ 8 then
    if w < 16 then decode (.phase (BitVec.ofNat 4 w)) else none
  else decode (.words (tableWords w))

end Sys2Proof
end

