-- ==== Sys2Proof/Machine/Schedule.lean ====
section
/-! DEFINITION. Which agent moves next (20_memory.md R76, R77) and what its turn begins with: an instruction read from a
client's command stream or selected by the phase register (30_encoding.md R103, R104), the pending events of one already
begun, or an illegal command word. The host is not scheduled (R76): it is heard when a turn is chosen. -/

namespace Sys2Proof.Machine

/-! ## Who has an enabled step (R77) -/

/-- A client has a step: it is not blocked (R217) and has pending events, or its stream begins with a whole command or an
illegal word (R103: a truncated one leaves it stuck). -/
def Client.enabled (c : Client) : Bool :=
  !c.blocked &&
    (!c.ops.isEmpty ||
      match decodeWords c.stream with
      | .command _ _ | .illegal _ => true
      | .truncated | .ended => false)

/-- The renderer has a step: it is not held (R167, R192) and has pending events or a phase with a step (R104). -/
def State.rendererEnabled (s : State) : Bool :=
  s.answered && (!s.renderer.ops.isEmpty || (decodePhase s.renderer.phase.code).isSome)

/-- Whether an agent has an enabled step. -/
def State.agentEnabled (s : State) : Agent → Bool
  | .client k =>
    match s.clients[k]? with
    | some c => c.enabled
    | none => false
  | .renderer => s.rendererEnabled

/-- The agents with an enabled step. -/
def State.enabledAgents (s : State) : List Agent :=
  ((List.range s.clients.length).map Agent.client ++ [Agent.renderer]).filter s.agentEnabled

/-! ## The next turn -/

/-- What comes next. -/
inductive Next where
  /-- A turn, taken in this state. -/
  | turn (t : Turn) (s : State)
  /-- The renderer is held, the host has not answered, and no client has an enabled step: time passes, in this state. -/
  | wait (s : State)
  /-- No agent has an enabled step and none can get one. -/
  | stuck
  deriving DecidableEq, Repr

/-- A turn of one of the agents with an enabled step, chosen freely, for any number of events (at least one). -/
def State.anyTurn (s : State) (ag : Agent) (more : List Agent) : Next :=
  .turn
    ⟨(ag :: more).getD (Config.freePick s.draws.count % (more.length + 1)) ag,
      some (Config.freePick (s.draws.count + 1) + 1)⟩
    s.countDraw.countDraw

/-- The next turn where the schedule leaves it free and the host has been heard. An agent that is alone, with no hold whose
end could let the renderer in between, performs its whole instruction. -/
def State.chooseTurn (s : State) : Next :=
  match s.enabledAgents with
  | [] => if s.answered then .stuck else .wait s
  | [ag] => if s.answered then .turn ⟨ag, none⟩ s else s.anyTurn ag []
  | ag :: more => s.anyTurn ag more

/-- A free turn: the host may answer, then any agent with an enabled step moves (R77). -/
def State.freeTurn (s : State) : Next := s.hearHost.chooseTurn

/-- The next turn: the schedule's next, if that agent has an enabled step, else a free one. -/
def State.nextTurn (s : State) : Next :=
  match s.sched with
  | t :: ts => if s.agentEnabled t.agent then .turn t { s with sched := ts } else { s with sched := ts }.freeTurn
  | [] => s.freeTurn

/-! ## What a turn does -/

/-- What an agent's turn begins with. -/
inductive Fetched where
  /-- An instruction, to be executed in this state. -/
  | run (i : Instr) (s : State)
  /-- The turn is over, in this state. -/
  | took (s : State)
  deriving DecidableEq, Repr

/-- The turn of client `k`: its pending events, or the next command of its stream (R103), or `IllegalCommand` (R237). A
command's words are passed when it begins, whether or not it then faults; an illegal word stays at the stream's head. No
rule says where the stream's position stands after a fault, and nothing reads it then (DESIGN CHOICE, assumption 26). -/
def fetchClient (k : Nat) (s : State) : Fetched :=
  match s.clients[k]? with
  | none => .took s
  | some c =>
    if c.ops = [] then
      match decodeWords c.stream with
      | .command i rest =>
        .run i ({ s with issuer := k }.modifyClient k fun c => { c with stream := rest })
      | .illegal w => .took (s.raise (.client k) (.illegalCommand w))
      | .truncated | .ended => .took s
    else .took (runClient k c.ops s.grant s)

/-- The turn of the renderer: its pending events, or the step its phase selects (R104). -/
def fetchRenderer (s : State) : Fetched :=
  if s.renderer.ops = [] then
    match decodePhase s.renderer.phase.code with
    | some i => .run i s
    | none => .took s
  else .took (runRenderer s.renderer.ops s.grant s)

/-- What a turn begins with. -/
def fetch (ag : Agent) (s : State) : Fetched :=
  match ag with
  | .client k => fetchClient k s
  | .renderer => fetchRenderer s

/-! ## Placing an instruction (for the host's check) -/

/-- Client 0 about to issue these words, with a turn of its own next. -/
def State.placeCommand (s : State) (ws : List Word) : State :=
  { s with
    fault := none
    renderer := if s.renderer.phase = .terminated then { s.renderer with phase := .idle } else s.renderer
    clients :=
      match s.clients with
      | [] => [Client.fresh ws]
      | c :: cs => { c with stream := ws, blocked := false, ops := [] } :: cs
    sched := ⟨.client 0, none⟩ :: s.sched }

/-- The renderer about to take the step of a phase, with a turn of its own next. -/
def State.placePhase (s : State) (p : Phase) : State :=
  { s with
    fault := none
    renderer := { s.renderer with phase := p, hold := none, ops := [] }
    sched := ⟨.renderer, none⟩ :: s.sched }

end Sys2Proof.Machine
end

