-- ==== Sys2Proof/Machine/Step.lean ====
section
/-! DEFINITION. One step of the machine: one turn of one agent (20_memory.md R71, R77). -/

namespace Sys2Proof.Machine

/-- Runs the instruction a turn fetched, if it fetched one. -/
def runFetched : Fetched → Host.Outcome State Fault Refusal
  | .run i s => exec i s
  | .took s => .next s

/-- One step: nothing once a fault is recorded (R230) or the renderer has terminated (R170); else the next turn, or a wait
for the host (R167: "a hang, and it is not a fault of the block"; assumption 18). -/
def step (s : State) : Host.Outcome State Fault Refusal :=
  if s.fault.isSome then .fault .halted
  else if s.renderer.phase = .terminated then .fault .terminated
  else
    match s.nextTurn with
    | .stuck => .fault .noEnabledAgent
    | .wait s1 => .next s1
    | .turn t s1 => runFetched (fetch t.agent { s1 with grant := t.grant })

/-- `s` with an instruction of the opcode table placed where the next step fetches it: a command in client 0's stream, a
renderer step in the phase register, the turn the agent's own. -/
def State.withFetchWord (s : State) (nbits w : Nat) : State :=
  if nbits ≤ 8 then
    match Phase.ofCode (BitVec.ofNat 4 w) with
    | some p => s.placePhase p
    | none => s
  else s.placeCommand (tableWords w)

end Sys2Proof.Machine
end

