-- ==== Sys2Proof/Machine/Pseudo.lean ====
section
/-! DEFINITION. The assembler syntax and the pseudo-commands of 30_encoding.md (R107, R108), and the codes of the faults
(60_exceptions.md R231). Nothing here is a step of the machine. -/

namespace Sys2Proof.Machine

/-- A fault's code (R231). -/
def FaultRecord.code : FaultRecord → Nat
  | .boundsFault _ => 1
  | .unsupportedMode _ => 2
  | .nonPositivePitch _ => 3
  | .outputSurfaceFault => 4
  | .usageFault _ => 5
  | .illegalCommand _ => 6
  | .refused _ => 7
  | .addressingModeFault _ => 8

/-! ## Pseudo-commands (R108) -/

/-- SET_MAP_MASK m. -/
def setMapMask (c : Config) (m : Byte) : List Instr := [.setReg .seq c.idMapMask m]

/-- SET_PITCH p, p even and 2 to 510. -/
def setPitch (c : Config) (p : Nat) : List Instr := [.setReg .crt c.idCrtOffset (BitVec.ofNat 8 (p / 2))]

/-- SET_START s: the high byte, then the low one (two events, R265). -/
def setStart (c : Config) (start : BitVec 16) : List Instr :=
  [.setReg .crt c.idCrtStartHi (start.extractLsb' 8 8), .setReg .crt c.idCrtStartLo (start.extractLsb' 0 8)]

/-- READ_STATUS. -/
def readStatus (c : Config) : List Instr := [.getReg .gen c.idStatus]

/-- FILL o, n, v. -/
def fill (o : BitVec 16) (n : Nat) (v : Byte) : List Instr := [.writeChunk o (List.replicate n v)]

/-- WAIT_VR repeats READ_STATUS until a response satisfies this; the loop is the client's software. -/
def waitVrDone (c : Config) (response : Byte) : Bool := decide (response &&& c.vrMask ≠ 0)

/-- WAIT_NOT_VR likewise. -/
def waitNotVrDone (c : Config) (response : Byte) : Bool := decide (response &&& c.vrMask = 0)

/-! ## Assembler syntax (R107) -/

/-- A bank's name. -/
def bankName : Bank → String
  | .gen => "GEN"
  | .crt => "CRT"
  | .gc => "GC"
  | .seq => "SEQ"

/-- A list of bytes with commas between them. -/
def byteList : List Byte → String
  | [] => ""
  | [b] => toString b.toNat
  | b :: bs => toString b.toNat ++ ", " ++ byteList bs

/-- The line of a command, numbers in decimal; WRITE_FULL has no operands and a renderer step is no command, so R107 gives
neither a line. -/
def asmLine : Instr → Option String
  | .getReg bank id => some ("GET_REG " ++ bankName bank ++ ", " ++ toString id.toNat)
  | .setReg bank id v =>
    some ("SET_REG " ++ bankName bank ++ ", " ++ toString id.toNat ++ ", " ++ toString v.toNat)
  | .readPlane k a => some ("READ_PLANE " ++ toString k.val ++ ", " ++ toString a.toNat)
  | .writeByte a v => some ("WRITE_BYTE " ++ toString a.toNat ++ ", " ++ toString v.toNat)
  | .writeChunk a bs => some ("WRITE_CHUNK " ++ toString a.toNat ++ ", [" ++ byteList bs ++ "]")
  | .startRendering mode => some ("START_RENDERING " ++ toString mode.toNat)
  | .writeFull _ => none
  | .frameStart | .lineBegin | .column | .lineEnd | .frameEnd | .poll | .pace => none

end Sys2Proof.Machine
end

