-- ==== Sys2Proof/Safety.lean ====
section
/-! DEFINITION. The terms in which claims about the machine are stated: a turn that covers an instruction, runs and their
weak fairness (20_memory.md R77), what a run leaves unchanged, the events an instruction appends, the history as the
explanation of memory and registers (R71), and the renderer's position in a frame (43_frame_renderer.md R160, R173;
45_status_signals.md R204). -/

namespace Sys2Proof.Machine

/-! ## Turns -/

/-- The turn's grant covers `n` events, so that no other agent's event falls between the first `n`. -/
def State.grants (s : State) (n : Nat) : Bool :=
  match s.grant with
  | none => true
  | some g => decide (n ≤ g)

/-- The agent at turn can perform an instruction of `n` events without interruption. -/
def State.covers (s : State) (n : Nat) : Bool := s.running && s.grants n

/-- The planar addressing check on the mode registers as they are now (R127). -/
def State.planar (s : State) : Bool :=
  planarMode (s.reg .seq s.cfg.idSeqMemMode) (s.reg .gc s.cfg.idGcMode) (s.reg .gc s.cfg.idGcMisc)

/-- A single-byte write is not stopped by the addressing policy (R126). -/
def State.mayWrite (s : State) : Bool := decide (s.cfg.addrMode = .ignoreModeBits) || s.planar

/-- The events of one single-byte write that no check stops: four plane events, and under `FaultNonPlanar` three mode reads
and their check before them (R120, R126). -/
def eventsPerByte (c : Config) : Nat :=
  match c.addrMode with
  | .ignoreModeBits => 4
  | .faultNonPlanar => 8

/-- No client has an enabled step. -/
def State.noClientMoves (s : State) : Prop := ∀ c ∈ s.clients, c.enabled = false

/-! ## Runs and fairness (R77) -/

/-- The agent whose turn the next step is; none where the machine is stuck or waits for the host. -/
def State.mover (s : State) : Option Agent :=
  match s.nextTurn with
  | .turn t _ => some t.agent
  | .wait _ | .stuck => none

/-- An infinite run: every state is the next one's predecessor. A wait for a host that does not answer is a step too, so
that R167's hang is a run. -/
def IsRun (run : Nat → State) : Prop := ∀ n, step (run n) = .next (run (n + 1))

/-- Weak fairness, R77's only liveness assumption: an agent whose step stays enabled eventually takes it. The machine does
not impose it; a claim of liveness takes it as a premise on its run. -/
def WeaklyFair (run : Nat → State) : Prop :=
  ∀ (ag : Agent) (n : Nat), (∀ m, n ≤ m → (run m).agentEnabled ag = true) → ∃ m, n ≤ m ∧ (run m).mover = some ag

/-! ## Malformed words (R91, R101, R102) -/

/-- The word's OP is reserved (R101). -/
def reservedOp (w : Word) : Prop := opField w = 0 ∨ 8 ≤ (opField w).toNat

/-- A field that R94 to R99 require to be 0 for the word's OP is not (R102). -/
def malformedFields (w : Word) : Prop :=
  (opField w = 1 ∧ (rsvField w ≠ 0 ∨ dataField w ≠ 0 ∨ addrHiField w ≠ 0)) ∨
  (opField w = 2 ∧ (rsvField w ≠ 0 ∨ addrHiField w ≠ 0)) ∨
  (opField w = 3 ∧ (rsvField w ≠ 0 ∨ dataField w ≠ 0)) ∨
  (opField w = 4 ∧ (selField w ≠ 0 ∨ rsvField w ≠ 0)) ∨
  (opField w = 5 ∧ (selField w ≠ 0 ∨ rsvField w ≠ 0 ∨ dataField w ≠ 0)) ∨
  (opField w = 6 ∧ (selField w ≠ 0 ∨ rsvField w ≠ 0 ∨ addrField w ≠ 0))

/-- A well-formed first word of a WRITE_CHUNK of `n` bytes whose last data word, the `ceil(n/4)`-th, has a nonzero byte
beyond the `n` (R98, R102). -/
def malformedPadding (w : Word) (rest : List Word) : Prop :=
  opField w = 5 ∧ ∃ (n : Word) (data : List Word) (last : Word), rest = n :: data
    ∧ n.toNat % 4 ≠ 0 ∧ data[n.toNat / 4]? = some last ∧ last >>> (8 * (n.toNat % 4)) ≠ 0

/-! ## What stays as it was -/

/-- Every register cell reads as before. -/
def SameRegs (s t : State) : Prop := ∀ bank id, t.reg bank id = s.reg bank id

/-- Every register cell but one reads as before. -/
def SameRegsBut (bank : Bank) (id : Byte) (s t : State) : Prop :=
  ∀ bank' id', ¬(bank' = bank ∧ id' = id) → t.reg bank' id' = s.reg bank' id'

/-- Every plane byte reads as before. -/
def SamePlanes (s t : State) : Prop := ∀ k a, t.plane k a = s.plane k a

/-- Every client but `k` is as before. -/
def SameOtherClients (k : Nat) (s t : State) : Prop := ∀ j, j ≠ k → t.clients[j]? = s.clients[j]?

/-- A client's command has left nothing pending and its stream, response and blocking as before. -/
def Client.Finished (c c' : Client) : Prop :=
  c'.stream = c.stream ∧ c'.response = c.response ∧ c'.blocked = c.blocked ∧ c'.ops = []

/-- A faulting command of the client at turn, performed up to its failing check (R230): the fault is recorded with its event
after the events `before`; registers, planes, framebuffer, renderer, every other client and, but for its pending events and
what it has latched, this client are as before. -/
def FaultsWith (f : FaultRecord) (before : List (Agent × Event)) (s t : State) : Prop :=
  t = { s with
      fault := some f
      history := (.client s.issuer, .fault f) :: before ++ s.history
      draws := t.draws, clients := t.clients }
    ∧ SameOtherClients s.issuer s t
    ∧ (∀ c, s.clients[s.issuer]? = some c → ∃ c', t.clients[s.issuer]? = some c' ∧ c.Finished c')

/-! ## The events an instruction appends (R27), newest first -/

/-- The three mode register reads of R126 by the client at turn, in some order. -/
def ModeReads (s : State) (reads : List (Agent × Event)) : Prop :=
  reads.Perm
    [(.client s.issuer, .regRead .seq s.cfg.idSeqMemMode (s.reg .seq s.cfg.idSeqMemMode)),
      (.client s.issuer, .regRead .gc s.cfg.idGcMode (s.reg .gc s.cfg.idGcMode)),
      (.client s.issuer, .regRead .gc s.cfg.idGcMisc (s.reg .gc s.cfg.idGcMisc))]

/-- R120's block for plane `k`: the Map-Mask is read and then, if bit `k` of it is 1, the byte written. -/
def planeBlock (s : State) (a : Nat) (v : Byte) (k : Fin 4) : List (Agent × Event) :=
  (if s.mapMask.getLsbD k.val then [(.client s.issuer, .planeWrite k a v)] else [])
    ++ [(.client s.issuer, .regRead .seq s.cfg.idMapMask s.mapMask)]

/-- The events of one single-byte write by the client at turn: the mode reads if the policy asks for them, then the four
planes' blocks in some order (R67, R120, R126). -/
def ByteEvents (s : State) (a : Nat) (v : Byte) (events : List (Agent × Event)) : Prop :=
  ∃ (order : List (Fin 4)) (reads : List (Agent × Event)), order.Perm [0, 1, 2, 3]
    ∧ (match s.cfg.addrMode with
      | .ignoreModeBits => reads = []
      | .faultNonPlanar => ModeReads s reads)
    ∧ events = order.flatMap (planeBlock s a v) ++ reads

/-- The events of a chunk's single-byte writes at ascending offsets (R122). -/
def ChunkEvents (s : State) : Nat → List Byte → List (Agent × Event) → Prop
  | _, [], events => events = []
  | a, v :: vs, events =>
    ∃ first later, ByteEvents s a v first ∧ ChunkEvents s (a + 1) vs later ∧ events = later ++ first

/-- FRAME_START's three register reads, in some order (R161). -/
def FrameReads (s : State) (reads : List (Agent × Event)) : Prop :=
  reads.Perm
    [(.renderer, .regRead .crt s.cfg.idCrtOffset (s.reg .crt s.cfg.idCrtOffset)),
      (.renderer, .regRead .crt s.cfg.idCrtStartHi (s.reg .crt s.cfg.idCrtStartHi)),
      (.renderer, .regRead .crt s.cfg.idCrtStartLo (s.reg .crt s.cfg.idCrtStartLo))]

/-- COLUMN's four plane reads at an offset, in some order (R68, R164). -/
def ColumnReads (s : State) (a : Nat) (reads : List (Agent × Event)) : Prop :=
  reads.Perm
    [(.renderer, .planeRead 0 a (s.plane 0 a)), (.renderer, .planeRead 1 a (s.plane 1 a)),
      (.renderer, .planeRead 2 a (s.plane 2 a)), (.renderer, .planeRead 3 a (s.plane 3 a))]

/-! ## The history as the explanation of the cells (R71) -/

/-- The last byte written to plane byte `k:a` in a history (newest first), if any. -/
def lastPlaneWrite (k : Fin 4) (a : Nat) : List (Agent × Event) → Option Byte
  | [] => none
  | (_, .planeWrite k' a' v) :: older => if k' = k ∧ a' = a then some v else lastPlaneWrite k a older
  | _ :: older => lastPlaneWrite k a older

/-- Every plane read of a history returned the byte the latest write before it left, or the byte of `base`. -/
def planeReadsExplained (base : Memory) : List (Agent × Event) → Prop
  | [] => True
  | (_, .planeRead k a v) :: older =>
    v = (lastPlaneWrite k a older).getD (cellsGet unlistedByte base (planeKey k a)) ∧ planeReadsExplained base older
  | _ :: older => planeReadsExplained base older

/-- The history explains plane memory, starting from the contents `base`: every byte is the last one written to it, and
every read returned the last byte written before it (R71). -/
def PlanesExplained (base : Memory) (s : State) : Prop :=
  (∀ k a, s.plane k a = (lastPlaneWrite k a s.history).getD (cellsGet unlistedByte base (planeKey k a)))
    ∧ planeReadsExplained base s.history

/-- The value of a known register cell after a history (newest first) that starts from the contents `base`: SET_REG
replaces it, a status update changes one bit of the status byte, everything else leaves it. -/
def cellAfter (c : Config) (base : Memory) (bank : Bank) (id : Byte) : List (Agent × Event) → Byte
  | [] => cellsGet unlistedByte base (regKey bank id)
  | (_, .regWrite bank' id' v) :: older => if bank' = bank ∧ id' = id then v else cellAfter c base bank id older
  | (_, .statusUpdate sig on) :: older =>
    if bank = .gen ∧ id = c.idStatus then signalByte c sig on (cellAfter c base bank id older)
    else cellAfter c base bank id older
  | _ :: older => cellAfter c base bank id older

/-- Every read of a known register in a history returned the value the events before it left. -/
def regReadsExplained (c : Config) (base : Memory) : List (Agent × Event) → Prop
  | [] => True
  | (_, .regRead bank id v) :: older =>
    ((c.known bank).contains id = true → v = cellAfter c base bank id older) ∧ regReadsExplained c base older
  | _ :: older => regReadsExplained c base older

/-- The history explains the known register cells (R71, R20). -/
def RegsExplained (base : Memory) (s : State) : Prop :=
  (∀ bank id, s.knows bank id = true → s.reg bank id = cellAfter s.cfg base bank id s.history)
    ∧ regReadsExplained s.cfg base s.history

/-! ## Invariants -/

/-- Registers, planes and framebuffer are in canonical form. -/
def Canonical (s : State) : Prop := Memory.wf s.regs = true ∧ Memory.wf s.planes = true ∧ Pixels.wf s.fb = true

/-- No plane byte is listed at an offset that does not exist (R62). -/
def PlanesInRange (s : State) : Prop := ∀ c ∈ s.planes, c.1 < 4 * s.cfg.planeBytes

/-- The event is a fault. -/
def isFault : Event → Bool
  | .fault _ => true
  | .regRead _ _ _ | .regWrite _ _ _ | .planeRead _ _ _ | .planeWrite _ _ _ | .statusUpdate _ _ | .present _ | .sleep _
  | .overrun _ => false

/-- How many faults a history holds. -/
def faultEvents : List (Agent × Event) → Nat
  | [] => 0
  | (_, e) :: older => (if isFault e then 1 else 0) + faultEvents older

/-- The history holds one fault if one is recorded, and none otherwise (R33, R241). -/
def OneFault (s : State) : Prop := faultEvents s.history = if s.fault.isSome then 1 else 0

/-- A pacing event of a history: a sleep is positive and at most the budget, an overrun not negative (R190). -/
def pacingEventOk : Agent × Event → Prop
  | (_, .sleep d) => 0 < d ∧ d ≤ frameBudget
  | (_, .overrun d) => 0 ≤ d
  | _ => True

/-- Time readings: the frame's reading is not after the latest one, none is negative, and every pacing event was within
its bounds (R190, R191). -/
def TimesOk (s : State) : Prop :=
  0 ≤ s.renderer.t0 ∧ s.renderer.t0 ≤ s.now ∧ ∀ e ∈ s.history, pacingEventOk e

/-! ## The renderer's position (R160, R162, R204) -/

/-- FRAME_START's register reads. -/
def isLatchReg : RendererOp → Bool
  | .latchReg _ _ _ => true
  | _ => false

/-- COLUMN's plane reads. -/
def isLatchPlane : RendererOp → Bool
  | .latchPlane _ _ => true
  | _ => false

/-- A frame has been latched (R161): the page start has 16 bits and the pitch is even, 2 to 510. -/
def FrameLatched (r : Renderer) : Prop := r.start < 65536 ∧ r.pitch % 2 = 0 ∧ 2 ≤ r.pitch ∧ r.pitch ≤ 510

/-- The renderer is on scanline `y` of a latched frame, at `start + y * pitch` (R172), with VR inactive. -/
def OnScanline (s : State) : Prop :=
  FrameLatched s.renderer ∧ s.renderer.y < displayH
    ∧ s.renderer.rowBase = s.renderer.start + s.renderer.y * s.renderer.pitch ∧ s.vr = false

/-- A frame has been presented. -/
def presented (s : State) : Bool :=
  s.history.any fun e =>
    match e.2 with
    | .present _ => true
    | .regRead _ _ _ | .regWrite _ _ _ | .planeRead _ _ _ | .planeWrite _ _ _ | .statusUpdate _ _ | .sleep _ | .overrun _
    | .fault _ => false

/-- Where the renderer is, what it has pending, what its registers hold and what VR and DE are, phase by phase: the loop of
R160 with the geometry of R162 and the signals of R204. -/
def AtPhase (s : State) : Prop :=
  match s.renderer.phase with
  | .idle => s.renderer.ops = [] ∧ s.renderer.hold = none ∧ presented s = false
  | .frameStart =>
    s.renderer.hold = none ∧ (presented s = true → s.de = true) ∧
      ∃ ls : List RendererOp, ls.all isLatchReg = true ∧
        (((s.renderer.ops = [] ∨ s.renderer.ops = .readTime :: .signal .vr false :: ls ++ [.latchFrame] ∨
            s.renderer.ops = .signal .vr false :: ls ++ [.latchFrame]) ∧ (presented s = true → s.vr = true)) ∨
          (s.renderer.ops = ls ++ [.latchFrame] ∧ s.vr = false))
  | .lineBegin =>
    s.renderer.hold = none ∧ OnScanline s ∧
      (((s.renderer.ops = [] ∨ s.renderer.ops = [.signal .de false, .enterColumns]) ∧
          (0 < s.renderer.y ∨ presented s = true → s.de = true)) ∨
        (s.renderer.ops = [.enterColumns] ∧ s.de = false))
  | .column =>
    s.renderer.hold = none ∧ OnScanline s ∧ s.renderer.col < cols ∧ s.de = false ∧
      (s.renderer.ops = [] ∨ (∃ f, s.renderer.ops = [.raise f]) ∨
        ∃ ls : List RendererOp, ls.all isLatchPlane = true ∧ s.renderer.ops = ls ++ [.drawColumn])
  | .lineEnd =>
    s.renderer.hold = none ∧ FrameLatched s.renderer ∧ s.renderer.y < displayH ∧ s.renderer.col = cols
      ∧ s.vr = false ∧
      ((s.renderer.rowBase = s.renderer.start + s.renderer.y * s.renderer.pitch ∧ s.de = false ∧
          (s.renderer.ops = [] ∨ s.renderer.ops = [.advanceRow, .signal .de true, .nextLine])) ∨
        (s.renderer.rowBase = s.renderer.start + (s.renderer.y + 1) * s.renderer.pitch ∧
          ((s.renderer.ops = [.signal .de true, .nextLine] ∧ s.de = false) ∨
            (s.renderer.ops = [.nextLine] ∧ s.de = true))))
  | .frameEnd =>
    s.renderer.y = displayH ∧ s.de = true ∧
      ((s.renderer.hold = none ∧ s.vr = false ∧
          (s.renderer.ops = [] ∨ s.renderer.ops = [.signal .vr true, .present, .awaitHost, .enter .poll])) ∨
        (s.vr = true ∧
          ((s.renderer.hold = none ∧ s.renderer.ops = [.present, .awaitHost, .enter .poll]) ∨
            s.renderer.ops = [.awaitHost, .enter .poll] ∨
            (s.renderer.hold = none ∧ s.renderer.ops = [.enter .poll]))))
  | .poll =>
    s.renderer.hold = none ∧ s.vr = true ∧ s.de = true ∧ (s.renderer.ops = [] ∨ s.renderer.ops = [.poll])
  | .pace =>
    s.vr = true ∧ s.de = true ∧
      ((s.renderer.hold = none ∧ s.renderer.ops = []) ∨
        (s.renderer.hold = none ∧ s.renderer.ops = [.pace, .awaitHost, .enter .frameStart]) ∨
        s.renderer.ops = [.awaitHost, .enter .frameStart] ∨
        (s.renderer.hold = none ∧ s.renderer.ops = [.enter .frameStart]))
  | .terminated => s.vr = true ∧ s.de = true ∧ s.renderer.ops = []

/-- While no fault is recorded the renderer is at its phase. -/
def RendererInPosition (s : State) : Prop := s.fault = none → AtPhase s

/-- A run from reset that has neither faulted nor terminated. -/
def SafeState (s : State) : Prop := s.running = true ∧ Canonical s ∧ RendererInPosition s

end Sys2Proof.Machine
end

