-- ==== Sys2Proof/Certificates/Slice0/Obligations.lean ====
section
/-! DEFINITION. The statements for the provers. Each docstring names the rules of spec/ it formalises. A hypothesis
`s.covers n` says that the machine runs and that the agent's turn covers the instruction's `n` events, so that the
statement's whole effect is this agent's (the grant is the model's own, assumption 6); `c` is the issuing client. -/

open Sys2Proof Sys2Proof.Machine

/-! ## Encoding -/

/-- R91 to R100, R104: every well-formed instruction is read back from its own encoding, every operand at every value.
-/
def Obligations.DecodeInvertsEncode : Prop :=
  ∀ i : Instr, i.wf = true → decode (encode i) = some i

/-- R103: in a stream, the words after a command's own are left for the next one. -/
def Obligations.StreamDecodesCommandByCommand : Prop :=
  ∀ (i : Instr) (ws rest : List Word), i.wf = true → encode i = .words ws →
    decodeWords (ws ++ rest) = .command i rest

/-- R91 to R102: a stream that decodes to a command begins with exactly that command's encoding; no bit is dropped. -/
def Obligations.DecodedWordsAreTheEncoding : Prop :=
  ∀ (i : Instr) (ws rest : List Word), decodeWords ws = .command i rest →
    i.wf = true ∧ ∃ own, encode i = .words own ∧ ws = own ++ rest

/-- R109, R98: the example words of R109, and the three words of a chunk of V-E7, decode to the commands they stand
for. -/
def Obligations.ExampleWordsDecodeAsTheSpecSays : Prop :=
  decode (.words [0x2C0F0002]) = some (.setReg .seq 0x02 0x0F)
    ∧ decode (.words [0x100000DA]) = some (.getReg .gen 0xDA)
    ∧ decode (.words [0x38000010]) = some (.readPlane 2 0x0010)
    ∧ decode (.words [0x40FF0000]) = some (.writeByte 0x0000 0xFF)
    ∧ decode (.words [0x24280013]) = some (.setReg .crt 0x13 0x28)
    ∧ decode (.words [0x60100000]) = some (.startRendering 0x10)
    ∧ decode (.words [0x50000050, 0x00000003, 0x00FF0180]) = some (.writeChunk 0x0050 [0x80, 0x01, 0xFF])

/-- R103: a stream that ends inside a WRITE_CHUNK leaves its client without a step. -/
def Obligations.TruncatedChunkLeavesClientStuck : Prop :=
  ∀ (s : State) (k : Nat) (c : Client) (a : BitVec 16) (n : Word) (data : List Word),
    s.clients[k]? = some c → c.ops = [] → data.length < (n.toNat + 3) / 4 →
    (c.stream = commandWord 5 0 0 a :: n :: data ∨ c.stream = [commandWord 5 0 0 a]) →
    s.agentEnabled (.client k) = false

/-! ## The step -/

/-- R103: at a client's turn, with nothing of an earlier command pending, step is exec of the command its stream begins
with, the client the issuer, the turn's grant in force. The schedule and the grant are the model's own (assumptions 5, 6).
That the stream has moved past the command's words before exec, also for a command that then faults, is the model's
choice (assumption 26). -/
def Obligations.StepRunsTheDecodedCommand : Prop :=
  ∀ (s : State) (k : Nat) (g : Option Nat) (ts : List Turn) (c : Client) (i : Instr) (rest : List Word),
    s.running = true → s.sched = ⟨.client k, g⟩ :: ts → s.clients[k]? = some c → c.blocked = false → c.ops = [] →
    decodeWords c.stream = .command i rest →
    step s = exec i
      { s with sched := ts, grant := g, issuer := k, clients := s.clients.set k { c with stream := rest } }

/-- R104: at the renderer's turn, not held and with nothing pending, step is exec of the step its phase selects. The
schedule and the grant are the model's own (assumptions 5, 6). -/
def Obligations.StepRunsThePhasesStep : Prop :=
  ∀ (s : State) (g : Option Nat) (ts : List Turn) (i : Instr),
    s.running = true → s.sched = ⟨.renderer, g⟩ :: ts → s.renderer.hold = none → s.renderer.ops = [] →
    encode i = .phase s.renderer.phase.code →
    step s = exec i { s with sched := ts, grant := g }

/-- R67, R68, R77: a turn of an agent with pending events performs those, not a new instruction. Pending events and the
grant are the model's own (assumption 6). -/
def Obligations.StepResumesPendingEvents : Prop :=
  (∀ (s : State) (k : Nat) (g : Option Nat) (ts : List Turn) (c : Client),
    s.running = true → s.sched = ⟨.client k, g⟩ :: ts → s.clients[k]? = some c → c.blocked = false → c.ops ≠ [] →
    step s = .next (runClient k c.ops g { s with sched := ts, grant := g })) ∧
  (∀ (s : State) (g : Option Nat) (ts : List Turn),
    s.running = true → s.sched = ⟨.renderer, g⟩ :: ts → s.answered = true → s.renderer.ops ≠ [] →
    step s = .next (runRenderer s.renderer.ops g { s with sched := ts, grant := g }))

/-- R101, R237: a word with a reserved OP raises IllegalCommand with that word, and does nothing else. The fault is
recorded in a next state (assumption 14); that the word stays at the stream's head is the model's choice (assumption 26).
-/
def Obligations.ReservedOpRaisesIllegalCommand : Prop :=
  ∀ (s : State) (k : Nat) (g : Option Nat) (ts : List Turn) (c : Client) (w : Word) (rest : List Word),
    s.running = true → s.sched = ⟨.client k, g⟩ :: ts → s.clients[k]? = some c → c.blocked = false → c.ops = [] →
    c.stream = w :: rest → reservedOp w →
    step s = .next
      { s with
        sched := ts, grant := g, fault := some (.illegalCommand w)
        history := (.client k, .fault (.illegalCommand w)) :: s.history }

/-- R102: a nonzero bit in a field that must be zero, and nonzero padding in a chunk's last data word, raise
IllegalCommand, and the command has no other effect. That the word recorded for bad padding is the first one is the
model's reading (assumption 15), that the stream stays where it is its choice (assumption 26). -/
def Obligations.MalformedCommandRaisesIllegalCommand : Prop :=
  ∀ (s : State) (k : Nat) (g : Option Nat) (ts : List Turn) (c : Client) (w : Word) (rest : List Word),
    s.running = true → s.sched = ⟨.client k, g⟩ :: ts → s.clients[k]? = some c → c.blocked = false → c.ops = [] →
    c.stream = w :: rest → malformedFields w ∨ malformedPadding w rest →
    step s = .next
      { s with
        sched := ts, grant := g, fault := some (.illegalCommand w)
        history := (.client k, .fault (.illegalCommand w)) :: s.history }

/-- R33: while a fault is recorded no agent has a step, and no instruction runs. The stop is the outcome `halted`
(assumption 14). -/
def Obligations.RecordedFaultStopsEveryAgent : Prop :=
  ∀ (s : State) (f : FaultRecord), s.fault = some f →
    step s = .fault .halted ∧ ∀ i : Instr, exec i s = .fault .halted

/-- R170: in the terminal phase no agent has a step, and no instruction runs. The stop is the outcome `terminated`
(assumption 14). -/
def Obligations.TerminatedMachineHasNoStep : Prop :=
  ∀ s : State, s.fault = none → s.renderer.phase = .terminated →
    step s = .fault .terminated ∧ ∀ i : Instr, exec i s = .fault .terminated

/-- R77, R71: every agent with an enabled step may be the next to move, with any grant. The schedule and the grant are
the model's own (assumptions 5, 6). -/
def Obligations.EveryEnabledAgentMayMoveNext : Prop :=
  ∀ (s : State) (ag : Agent) (g : Option Nat) (ts : List Turn),
    s.running = true → s.agentEnabled ag = true → s.sched = ⟨ag, g⟩ :: ts →
    s.mover = some ag ∧ step s = runFetched (fetch ag { s with sched := ts, grant := g })

/-- R67, R68, R126, R161: every order of unordered events, a client's or the renderer's, is the order of some draw, and
every draw gives one. An order is drawn as a number (assumption 5). -/
def Obligations.EveryOrderOfEventsIsAdmitted : Prop :=
  ∀ (α : Type) (l : List α) (n : Nat), (permute n l).Perm l ∧ ∀ l' : List α, l'.Perm l → ∃ m, permute m l = l'

/-- R67, R77: a command cut off after some of its events and taken up again, nothing having happened between, ends as
the uninterrupted command does. Pending events are the model's own (assumption 6). -/
def Obligations.InterruptedCommandResumesToTheSameEnd : Prop :=
  ∀ (s : State) (k g : Nat) (c c' : Client) (ops : List ClientOp),
    s.clients[k]? = some c → (runClient k ops (some g) s).running = true →
    (runClient k ops (some g) s).clients[k]? = some c' →
    runClient k c'.ops none (runClient k ops (some g) s) = runClient k ops none s

/-! ## Reset -/

/-- R38, R260, R11: at reset, for any parameters and any streams of at least one client, the phase is IDLE, the history
empty, FAULT none, the palette the parameter's, and every client at the start of its stream with no response and not
blocked. `State.reset` itself has the default parameters and one client (the model's choice, assumptions 2 and 4). -/
def Obligations.ResetLeavesIdleMachine : Prop :=
  (∀ (cfg : Config) (first : List Word) (more : List (List Word)),
    (State.resetWith cfg first more).renderer.phase = .idle ∧ (State.resetWith cfg first more).history = []
      ∧ (State.resetWith cfg first more).fault = none ∧ (State.resetWith cfg first more).cfg.palette = cfg.palette
      ∧ ((State.resetWith cfg first more).clients.map fun c => (c.stream, c.response, c.blocked))
          = (first :: more).map (fun ws => (ws, none, false))
      ∧ 1 ≤ (State.resetWith cfg first more).clients.length)
    ∧ State.reset = State.resetWith Config.default [] [] ∧ State.reset.cfg.wf = true

/-- ASSUMPTION 1 (the model's choice, not the spec's: R38 leaves them draws): at reset every register cell and plane
byte reads as 0, R39's premise ZeroInit. -/
def Obligations.ResetCellsAreZero : Prop :=
  ∀ (cfg : Config) (first : List Word) (more : List (List Word)),
    (∀ bank id, (State.resetWith cfg first more).reg bank id = 0) ∧
      ∀ k a, (State.resetWith cfg first more).plane k a = 0

/-! ## Registers -/

/-- R210, R216, R66: GET_REG responds the known cell's byte, or for an unknown code the byte drawn, and changes nothing
else but the history. The byte of an unknown code is an answer already given or a free value (assumption 7); the response
is an event of its own after the read (assumption 25). -/
def Obligations.GetRegRespondsAndChangesNothingElse : Prop :=
  ∀ (s : State) (bank : Bank) (id : Byte) (c : Client), s.covers 2 = true → s.clients[s.issuer]? = some c →
    ∃ (v : Byte) (t : State), exec (.getReg bank id) s = .next t
      ∧ (s.knows bank id = true → v = s.reg bank id ∧ t.draws = s.draws)
      ∧ (s.knows bank id = false → ∀ b bs, s.draws.bytes = b :: bs → v = b)
      ∧ (s.knows bank id = false → s.draws.bytes = [] → v = Config.freeByte s.draws.count)
      ∧ t = { s with
          draws := t.draws
          history := (.client s.issuer, .regRead bank id v) :: s.history
          clients := s.clients.set s.issuer { c with response := some v, ops := [], latch := c.latch.set 0 v } }

/-- R211, R20, R216: SET_REG replaces a known cell's whole byte, changes no cell for an unknown code, and changes
nothing else but the history. -/
def Obligations.SetRegReplacesTheByte : Prop :=
  ∀ (s : State) (bank : Bank) (id v : Byte) (c : Client), s.covers 1 = true → s.clients[s.issuer]? = some c →
    ¬(bank = .gen ∧ id = s.cfg.idStatus) →
    ∃ t : State, exec (.setReg bank id v) s = .next t
      ∧ t.reg bank id = (if s.knows bank id then v else s.reg bank id) ∧ SameRegsBut bank id s t
      ∧ t = { s with
          regs := t.regs
          history := (.client s.issuer, .regWrite bank id v) :: s.history
          clients := s.clients.set s.issuer { c with ops := [] } }

/-- R212: SET_REG of the status byte raises UsageFault(StatusWrite) in every phase and writes nothing. -/
def Obligations.StatusWriteIsUsageFault : Prop :=
  ∀ (s : State) (v : Byte), s.covers 1 = true →
    ∃ t : State, exec (.setReg .gen s.cfg.idStatus v) s = .next t ∧ FaultsWith (.usageFault .statusWrite) [] s t

/-- R213, R217: START_RENDERING of the supported mode, in IDLE, with a nonzero CRT Offset, puts the renderer at
FRAME_START and blocks its client, which then has no step; it changes nothing else but the history. The turn covers the
command's four events; what a start of another client between them does is assumption 12. -/
def Obligations.StartRenderingStartsTheFrameLoop : Prop :=
  ∀ (s : State) (c : Client), s.covers 4 = true → s.clients[s.issuer]? = some c → s.renderer.phase = .idle →
    s.reg .crt s.cfg.idCrtOffset ≠ 0 →
    ∃ t : State, exec (.startRendering s.cfg.supportedMode) s = .next t
      ∧ t = { s with
          renderer := { s.renderer with mode := s.cfg.supportedMode, phase := .frameStart }
          history := (.client s.issuer, .regRead .crt s.cfg.idCrtOffset (s.reg .crt s.cfg.idCrtOffset)) :: s.history
          clients :=
            s.clients.set s.issuer
              { c with blocked := true, ops := [], latch := c.latch.set 0 (s.reg .crt s.cfg.idCrtOffset) } }
      ∧ t.agentEnabled (.client s.issuer) = false

/-- R213, R214, R233, R234, R241: START_RENDERING's faults, the first failing check in R213's order; no frame is started.
The turn covers the command's four events, so that no other agent's event falls between the checks; what a start of another
client between them does is assumption 12. -/
def Obligations.StartRenderingRejectsBadConfiguration : Prop :=
  ∀ (s : State) (mode : Byte), s.covers 4 = true → s.issuer < s.clients.length →
    (s.renderer.phase ≠ .idle ∨ mode ≠ s.cfg.supportedMode ∨ s.reg .crt s.cfg.idCrtOffset = 0) →
    ∃ t : State, exec (.startRendering mode) s = .next t ∧
      if s.renderer.phase ≠ .idle then FaultsWith (.usageFault .alreadyRendering) [] s t
      else if mode ≠ s.cfg.supportedMode then FaultsWith (.unsupportedMode mode) [] s t
      else FaultsWith (.nonPositivePitch 0) [(.client s.issuer, .regRead .crt s.cfg.idCrtOffset 0)] s t

/-! ## Planes -/

/-- R123, R66: READ_PLANE responds the plane's byte, written or not, and changes nothing else but the history. The response
is an event of its own after the read (assumption 25). -/
def Obligations.ReadPlaneRespondsTheByte : Prop :=
  ∀ (s : State) (k : Fin 4) (a : BitVec 16) (c : Client), s.covers 2 = true → s.clients[s.issuer]? = some c →
    a.toNat < s.cfg.planeBytes →
    exec (.readPlane k a) s = .next
      { s with
        history := (.client s.issuer, .planeRead k a.toNat (s.plane k a.toNat)) :: s.history
        clients :=
          s.clients.set s.issuer
            { c with
              response := some (s.plane k a.toNat), ops := [], latch := c.latch.set 0 (s.plane k a.toNat) } }

/-- R62, R120, R123, R232: a READ_PLANE or WRITE_BYTE at an offset not below PLANE_BYTES raises BoundsFault with the
offset; the access does not take place. -/
def Obligations.OutOfBoundsByteAccessFaults : Prop :=
  ∀ (s : State) (k : Fin 4) (a : BitVec 16) (v : Byte), s.covers 1 = true → s.cfg.planeBytes ≤ a.toNat →
    (∃ t : State, exec (.readPlane k a) s = .next t ∧ FaultsWith (.boundsFault a.toNat) [] s t) ∧
    ∃ t : State, exec (.writeByte a v) s = .next t ∧ FaultsWith (.boundsFault a.toNat) [] s t

/-- R120, R121, R128: WRITE_BYTE in bounds, not stopped by the addressing policy, replaces the byte at its offset in
exactly the planes whose Map-Mask bit is set; every other plane byte, every register and everything else stays. It appends
the events of R120: each plane's Map-Mask read and its write if enabled, after R126's reads if the policy asks for them. -/
def Obligations.WriteByteReachesExactlyTheEnabledPlanes : Prop :=
  ∀ (s : State) (a : BitVec 16) (v : Byte) (c : Client), s.covers (eventsPerByte s.cfg) = true →
    s.clients[s.issuer]? = some c → a.toNat < s.cfg.planeBytes → s.mayWrite = true →
    ∃ (t : State) (c' : Client), exec (.writeByte a v) s = .next t
      ∧ (∀ k : Fin 4, t.plane k a.toNat = if s.mapMask.getLsbD k.val then v else s.plane k a.toNat)
      ∧ (∀ (k : Fin 4) (a' : Nat), a' ≠ a.toNat → t.plane k a' = s.plane k a')
      ∧ (∃ events, ByteEvents s a.toNat v events ∧ t.history = events ++ s.history)
      ∧ t = { s with planes := t.planes, history := t.history, draws := t.draws, clients := t.clients }
      ∧ SameOtherClients s.issuer s t ∧ t.clients[s.issuer]? = some c' ∧ c.Finished c'

/-- R126, R127, R239: under FaultNonPlanar, with the mode registers not planar, WRITE_BYTE and a nonempty WRITE_CHUNK
in range raise AddressingModeFault at their first offset, after the three mode register reads, and write nothing. -/
def Obligations.NonPlanarWriteFaults : Prop :=
  ∀ (s : State) (a : BitVec 16) (v : Byte) (bs : List Byte), s.covers 4 = true → s.issuer < s.clients.length →
    s.cfg.addrMode = .faultNonPlanar → s.planar = false → a.toNat < s.cfg.planeBytes →
    (∃ (t : State) (before : List (Agent × Event)), exec (.writeByte a v) s = .next t
      ∧ FaultsWith (.addressingModeFault a.toNat) before s t ∧ ModeReads s before) ∧
    (a.toNat + (v :: bs).length ≤ s.cfg.planeBytes →
      ∃ (t : State) (before : List (Agent × Event)), exec (.writeChunk a (v :: bs)) s = .next t
        ∧ FaultsWith (.addressingModeFault a.toNat) before s t ∧ ModeReads s before)

/-- R122, R98: WRITE_CHUNK in range writes byte i at offset O+i of exactly the enabled planes, and nothing outside O to
O+N-1; every register and everything else stays. It appends each byte's events in ascending order. -/
def Obligations.WriteChunkWritesItsRange : Prop :=
  ∀ (s : State) (a : BitVec 16) (bs : List Byte) (c : Client),
    s.covers (bs.length * eventsPerByte s.cfg) = true → s.clients[s.issuer]? = some c →
    a.toNat + bs.length ≤ s.cfg.planeBytes → s.mayWrite = true →
    ∃ (t : State) (c' : Client), exec (.writeChunk a bs) s = .next t
      ∧ (∀ (k : Fin 4) (i : Nat) (b : Byte), bs[i]? = some b →
          t.plane k (a.toNat + i) = if s.mapMask.getLsbD k.val then b else s.plane k (a.toNat + i))
      ∧ (∀ (k : Fin 4) (a' : Nat), a' < a.toNat ∨ a.toNat + bs.length ≤ a' → t.plane k a' = s.plane k a')
      ∧ (∃ events, ChunkEvents s a.toNat bs events ∧ t.history = events ++ s.history)
      ∧ t = { s with planes := t.planes, history := t.history, draws := t.draws, clients := t.clients }
      ∧ SameOtherClients s.issuer s t ∧ t.clients[s.issuer]? = some c' ∧ c.Finished c'

/-- R122: a chunk of no bytes is a no-op, wherever its offset is. -/
def Obligations.EmptyChunkIsNoOp : Prop :=
  ∀ (s : State) (a : BitVec 16) (c : Client), s.running = true → s.clients[s.issuer]? = some c →
    exec (.writeChunk a []) s = .next { s with clients := s.clients.set s.issuer { c with ops := [] } }

/-- R122, R232: a nonempty chunk that would pass PLANE_BYTES raises BoundsFault(max(O, PLANE_BYTES)) before any byte is
written, so that nothing is. -/
def Obligations.ChunkPastTheEndWritesNothing : Prop :=
  ∀ (s : State) (a : BitVec 16) (bs : List Byte), s.covers 1 = true → bs ≠ [] →
    s.cfg.planeBytes < a.toNat + bs.length →
    ∃ t : State, exec (.writeChunk a bs) s = .next t
      ∧ FaultsWith (.boundsFault (max a.toNat s.cfg.planeBytes)) [] s t

/-- R125, R238: WRITE_FULL is refused, whatever its other bits: the fault Refused is recorded; no register, plane byte,
pixel or renderer register and no other client changes. -/
def Obligations.WriteFullIsRefused : Prop :=
  ∀ (s : State) (rest : BitVec 28), s.covers 1 = true →
    ∃ t : State, exec (.writeFull rest) s = .next t ∧ FaultsWith (.refused "WRITE_FULL") [] s t

/-- R121, R128: no instruction writes a plane whose Map-Mask bit is clear. -/
def Obligations.MaskedPlanesAreNeverWritten : Prop :=
  ∀ (s t : State) (i : Instr) (k : Fin 4) (a : Nat), exec i s = .next t → s.mapMask.getLsbD k.val = false →
    t.plane k a = s.plane k a

/-- R79, R80: a renderer step and a register command leave every plane byte; plane writes and every other command but
SET_REG leave every register cell. -/
def Obligations.PlanesAndRegistersAreWrittenOnlyByTheirOwn : Prop :=
  ∀ (s t : State) (i : Instr), exec i s = .next t →
    ((∀ a v, i ≠ .writeByte a v) → (∀ a bs, i ≠ .writeChunk a bs) → SamePlanes s t) ∧
    (∀ ws : List Word, encode i = .words ws → (∀ bank id v, i ≠ .setReg bank id v) → SameRegs s t) ∧
    (∀ p : BitVec 4, encode i = .phase p → SameRegsBut .gen s.cfg.idStatus s t)

/-! ## Compositor and signals -/

/-- R140: bit k of a pixel's index is bit 7-b of plane k's byte. -/
def Obligations.PixelIndexBitsComeFromThePlanes : Prop :=
  ∀ (q0 q1 q2 q3 : Byte) (b : Fin 8),
    (pixelIndex q0 q1 q2 q3 b).getLsbD 0 = q0.getLsbD (7 - b.val)
      ∧ (pixelIndex q0 q1 q2 q3 b).getLsbD 1 = q1.getLsbD (7 - b.val)
      ∧ (pixelIndex q0 q1 q2 q3 b).getLsbD 2 = q2.getLsbD (7 - b.val)
      ∧ (pixelIndex q0 q1 q2 q3 b).getLsbD 3 = q3.getLsbD (7 - b.val)

/-- R69, R200 to R203: a signal update sets or clears its own bit of the status byte, preserves every other bit of it,
and changes nothing else but the history. -/
def Obligations.SignalUpdateChangesOneBit : Prop :=
  ∀ (s : State) (sig : Signal) (on : Bool),
    (s.updateSignal sig on).status &&& ~~~ Signal.mask s.cfg sig = s.status &&& ~~~ Signal.mask s.cfg sig
      ∧ (s.updateSignal sig on).status &&& Signal.mask s.cfg sig = (if on then Signal.mask s.cfg sig else 0)
      ∧ SameRegsBut .gen s.cfg.idStatus s (s.updateSignal sig on)
      ∧ s.updateSignal sig on =
          { s with
            regs := (s.updateSignal sig on).regs
            history := (.renderer, .statusUpdate sig on) :: s.history }

/-! ## Renderer -/

/-- R161: FRAME_START with a nonzero CRT Offset reads the time, clears VR, reads three registers, latches pitch and page
start and resets the cursor; planes, framebuffer, clients and every other register stay. The reading is a draw (assumption
8). -/
def Obligations.FrameStartLatchesTheFrame : Prop :=
  ∀ s : State, s.covers 6 = true → s.reg .crt s.cfg.idCrtOffset ≠ 0 →
    ∃ t : State, exec .frameStart s = .next t
      ∧ s.now ≤ t.now
      ∧ t.renderer =
          { s.renderer with
            t0 := t.now
            pitch := 2 * (s.reg .crt s.cfg.idCrtOffset).toNat
            start := 256 * (s.reg .crt s.cfg.idCrtStartHi).toNat + (s.reg .crt s.cfg.idCrtStartLo).toNat
            rowBase := 256 * (s.reg .crt s.cfg.idCrtStartHi).toNat + (s.reg .crt s.cfg.idCrtStartLo).toNat
            y := 0, col := 0, phase := .lineBegin, ops := [], latch := t.renderer.latch }
      ∧ (∃ reads, FrameReads s reads ∧ t.history = reads ++ (.renderer, .statusUpdate .vr false) :: s.history)
      ∧ t.status = s.status &&& ~~~ s.cfg.vrMask ∧ SameRegsBut .gen s.cfg.idStatus s t
      ∧ t = { s with
          renderer := t.renderer, regs := t.regs, history := t.history, draws := t.draws, now := t.now }

/-- R161, R234, R243: with CRT Offset 0, FRAME_START raises NonPositivePitch after its reads: ClrVR has been done,
nothing is latched, the phase stays. -/
def Obligations.ZeroPitchStopsFrameStart : Prop :=
  ∀ s : State, s.covers 6 = true → s.reg .crt s.cfg.idCrtOffset = 0 →
    ∃ t : State, exec .frameStart s = .next t
      ∧ t.fault = some (.nonPositivePitch 0)
      ∧ s.now ≤ t.now
      ∧ t.renderer = { s.renderer with t0 := t.now, ops := [], latch := t.renderer.latch }
      ∧ (∃ reads, FrameReads s reads
        ∧ t.history =
            (.renderer, .fault (.nonPositivePitch 0)) :: reads ++ (.renderer, .statusUpdate .vr false) :: s.history)
      ∧ t.status = s.status &&& ~~~ s.cfg.vrMask ∧ SameRegsBut .gen s.cfg.idStatus s t
      ∧ t = { s with
          fault := t.fault, renderer := t.renderer, regs := t.regs, history := t.history, draws := t.draws
          now := t.now }

/-- R163: LINE_BEGIN clears DE, sets col to 0 and goes to COLUMN; everything else stays. -/
def Obligations.LineBeginClearsDisplayEnable : Prop :=
  ∀ s : State, s.covers 2 = true →
    ∃ t : State, exec .lineBegin s = .next t
      ∧ t.status = s.status &&& ~~~ s.cfg.deMask ∧ SameRegsBut .gen s.cfg.idStatus s t
      ∧ t = { s with
          renderer := { s.renderer with col := 0, phase := .column, ops := [] }
          regs := t.regs
          history := (.renderer, .statusUpdate .de false) :: s.history }

/-- R164, R148, R149: COLUMN draws the eight pixels of its byte-column from the four plane bytes at rowBase + col,
advances the column and after the 80th goes to LINE_END; it appends the four reads; every other pixel, every plane byte,
every register and the clients stay. -/
def Obligations.ColumnDrawsEightPixels : Prop :=
  ∀ s : State, s.covers 5 = true → s.renderer.phase = .column → s.renderer.y < displayH → s.renderer.col < cols →
    s.renderer.rowBase + s.renderer.col < s.cfg.planeBytes →
    ∃ t : State, exec .column s = .next t
      ∧ (∀ b : Fin 8, t.pixel s.renderer.y (8 * s.renderer.col + b.val) =
          rgb s.cfg
            (pixelIndex (s.plane 0 (s.renderer.rowBase + s.renderer.col))
              (s.plane 1 (s.renderer.rowBase + s.renderer.col)) (s.plane 2 (s.renderer.rowBase + s.renderer.col))
              (s.plane 3 (s.renderer.rowBase + s.renderer.col)) b))
      ∧ (∀ y x : Nat, x < displayW → ¬(y = s.renderer.y ∧ x / 8 = s.renderer.col) → t.pixel y x = s.pixel y x)
      ∧ t.renderer =
          { s.renderer with
            col := s.renderer.col + 1
            phase := if s.renderer.col + 1 = 80 then .lineEnd else .column
            ops := [], latch := t.renderer.latch }
      ∧ (∃ reads, ColumnReads s (s.renderer.rowBase + s.renderer.col) reads ∧ t.history = reads ++ s.history)
      ∧ t = { s with fb := t.fb, renderer := t.renderer, history := t.history, draws := t.draws }

/-- R164, R62: COLUMN at an offset not below PLANE_BYTES raises BoundsFault; no plane is read, no pixel drawn. -/
def Obligations.ColumnOutOfBoundsFaults : Prop :=
  ∀ s : State, s.covers 1 = true → s.cfg.planeBytes ≤ s.renderer.rowBase + s.renderer.col →
    exec .column s = .next
      { s with
        fault := some (.boundsFault (s.renderer.rowBase + s.renderer.col))
        history := (.renderer, .fault (.boundsFault (s.renderer.rowBase + s.renderer.col))) :: s.history
        renderer := { s.renderer with ops := [] } }

/-- R165: LINE_END advances the row base by the pitch, sets DE, and goes to the next scanline, after the 350th to
FRAME_END; everything else stays. -/
def Obligations.LineEndAdvancesTheRow : Prop :=
  ∀ s : State, s.covers 3 = true →
    ∃ t : State, exec .lineEnd s = .next t
      ∧ t.status = s.status ||| s.cfg.deMask ∧ SameRegsBut .gen s.cfg.idStatus s t
      ∧ t = { s with
          renderer :=
            { s.renderer with
              rowBase := s.renderer.rowBase + s.renderer.pitch
              y := s.renderer.y + 1
              phase := if s.renderer.y + 1 = 350 then .frameEnd else .lineBegin
              ops := [] }
          regs := t.regs
          history := (.renderer, .statusUpdate .de true) :: s.history }

/-- R166, R167: FRAME_END sets VR and presents a copy of the framebuffer; an accepted present goes on to POLL, a failed
one raises OutputSurfaceFault after both. The answer is one already given (assumption 18). -/
def Obligations.FrameEndPresentsTheFramebuffer : Prop :=
  ∀ (s : State) (o : PresentOutcome) (os : List PresentOutcome), s.covers 4 = true → s.draws.presents = o :: os →
    ∃ t : State, exec .frameEnd s = .next t
      ∧ t.status = s.status ||| s.cfg.vrMask ∧ SameRegsBut .gen s.cfg.idStatus s t
      ∧ t.draws = { s.draws with presents := os }
      ∧ t = { s with
          fault := t.fault, renderer := t.renderer, regs := t.regs, history := t.history, draws := t.draws }
      ∧ (o = .accepted → t.fault = none
          ∧ t.renderer = { s.renderer with phase := .poll, hold := none, ops := [] }
          ∧ t.history = (.renderer, .present s.fb) :: (.renderer, .statusUpdate .vr true) :: s.history)
      ∧ (o = .failed → t.fault = some .outputSurfaceFault ∧ t.renderer.phase = s.renderer.phase
          ∧ t.history =
              (.renderer, .fault .outputSurfaceFault) :: (.renderer, .present s.fb)
                :: (.renderer, .statusUpdate .vr true) :: s.history)

/-- R167: without an answer the renderer is held after Present: it has no step, and every client keeps its own. That no
answer has been given is a premise on the draws (assumption 9). -/
def Obligations.UnansweredPresentHoldsTheRenderer : Prop :=
  ∀ s : State, s.covers 4 = true → s.draws.presents = [] →
    ∃ t : State, exec .frameEnd s = .next t
      ∧ t.renderer = { s.renderer with hold := some .present, ops := [.awaitHost, .enter .poll] }
      ∧ t.history = (.renderer, .present s.fb) :: (.renderer, .statusUpdate .vr true) :: s.history
      ∧ t.fault = none ∧ t.clients = s.clients ∧ t.planes = s.planes ∧ t.fb = s.fb
      ∧ t.agentEnabled .renderer = false
      ∧ ∀ k, t.agentEnabled (.client k) = s.agentEnabled (.client k)

/-- R167, R192, R235: once the host has answered, the held renderer has its step, and the hold ends by the answer: an
accepted present goes on, a failed one raises OutputSurfaceFault, an ended sleep goes on. An answer is in the draws
(assumptions 9, 18). -/
def Obligations.HostsAnswerEndsTheHold : Prop :=
  ∀ (s : State) (g : Option Nat) (ts : List Turn) (p : Phase), s.running = true → s.sched = ⟨.renderer, g⟩ :: ts →
    (∀ n, g = some n → 2 ≤ n) → s.renderer.ops = [.awaitHost, .enter p] →
    (∀ os, s.renderer.hold = some .present → s.draws.presents = .accepted :: os →
      step s = .next
        { s with
          sched := ts, grant := g, draws := { s.draws with presents := os }
          renderer := { s.renderer with hold := none, phase := p, ops := [] } }) ∧
    (∀ os, s.renderer.hold = some .present → s.draws.presents = .failed :: os →
      step s = .next
        { s with
          sched := ts, grant := g, draws := { s.draws with presents := os }, fault := some .outputSurfaceFault
          history := (.renderer, .fault .outputSurfaceFault) :: s.history
          renderer := { s.renderer with ops := [] } }) ∧
    (∀ n, s.renderer.hold = some .sleep → s.draws.wakes = n + 1 →
      step s = .next
        { s with
          sched := ts, grant := g, draws := { s.draws with wakes := n }
          renderer := { s.renderer with hold := none, phase := p, ops := [] } })

/-- R168, R170: POLL samples the termination input and goes to TERMINATED or to PACE; VR, DE and everything else but
the draws stay. The input is an answer already given or a free value (assumption 10). -/
def Obligations.PollTerminatesOrGoesOn : Prop :=
  ∀ s : State, s.covers 1 = true →
    ∃ (term : Bool) (t : State), exec .poll s = .next t
      ∧ (∀ b bs, s.draws.terminates = b :: bs → term = b)
      ∧ (s.draws.terminates = [] → term = Config.freeTerminate s.draws.count)
      ∧ t = { s with
          renderer := { s.renderer with phase := if term then .terminated else .pace, ops := [] }
          draws := t.draws }

/-- R190 to R194, R252: PACE reads the time; under the budget it sleeps the rest, held until the host lifts it, else it
reports the overrun, without a fault, and goes to FRAME_START at once; nothing else changes. The reading is a draw
(assumption 8), and how many sleeps the host has already ended is the model's own (assumption 18). -/
def Obligations.PaceSleepsOrReportsTheOverrun : Prop :=
  ∀ s : State, s.covers 3 = true → s.renderer.hold = none →
    ∃ t : State, exec .pace s = .next t
      ∧ s.now ≤ t.now
      ∧ (t.now - s.renderer.t0 < 1 / 60 →
          t.history = (.renderer, .sleep (1 / 60 - (t.now - s.renderer.t0))) :: s.history ∧
          (s.draws.wakes = 0 →
            t.renderer = { s.renderer with hold := some .sleep, ops := [.awaitHost, .enter .frameStart] }
              ∧ t.agentEnabled .renderer = false) ∧
          (0 < s.draws.wakes → t.renderer = { s.renderer with phase := .frameStart, ops := [] }))
      ∧ (1 / 60 ≤ t.now - s.renderer.t0 →
          t.history = (.renderer, .overrun (t.now - s.renderer.t0 - 1 / 60)) :: s.history ∧
          t.renderer = { s.renderer with phase := .frameStart, ops := [] })
      ∧ t = { s with renderer := t.renderer, history := t.history, draws := t.draws, now := t.now }

/-- R162, R164, R148: when no client can move, 80 turns from the first column of a scanline draw the whole scanline and
arrive at LINE_END; every other row, every plane byte and every register stay. Turns are the model's own (assumption
5). -/
def Obligations.ScanlineIsDrawnInEightyColumns : Prop :=
  ∀ (s : State) (n : Nat), n = cols → s.running = true → s.sched = [] → s.noClientMoves → s.renderer.phase = .column →
    s.renderer.ops = [] → s.renderer.hold = none → s.renderer.col = 0 → s.renderer.y < displayH →
    s.renderer.rowBase + 79 < s.cfg.planeBytes →
    ∃ t : State, core.run n s = .next t
      ∧ (∀ x : Nat, x < displayW → t.pixel s.renderer.y x =
          rgb s.cfg
            (pixelIndex (s.plane 0 (s.renderer.rowBase + x / 8)) (s.plane 1 (s.renderer.rowBase + x / 8))
              (s.plane 2 (s.renderer.rowBase + x / 8)) (s.plane 3 (s.renderer.rowBase + x / 8)) (Fin.ofNat 8 (x % 8))))
      ∧ (∀ y x : Nat, x < displayW → y ≠ s.renderer.y → t.pixel y x = s.pixel y x)
      ∧ t.renderer = { s.renderer with col := 80, phase := .lineEnd, latch := t.renderer.latch }
      ∧ t.planes = s.planes ∧ t.regs = s.regs ∧ t.clients = s.clients ∧ t.fault = none ∧ t.sched = []

/-- R172, R162, R171: when no client can move, the 350 scanlines of a latched frame that is in bounds all complete, and
the framebuffer then is the frame of R172's formula: pixel (x, y) from offset start + y * pitch + x div 8. Turns are
the model's own (assumption 5). -/
def Obligations.FrameContentFollowsTheFormula : Prop :=
  ∀ (s : State) (n : Nat), n = displayH * (cols + 2) → s.running = true → s.sched = [] → s.noClientMoves →
    s.renderer.phase = .lineBegin → s.renderer.ops = [] → s.renderer.hold = none → s.renderer.y = 0 →
    s.renderer.rowBase = s.renderer.start →
    s.renderer.start + 349 * s.renderer.pitch + 79 < s.cfg.planeBytes →
    ∃ t : State, core.run n s = .next t
      ∧ (∀ y x : Nat, y < displayH → x < displayW → t.pixel y x =
          rgb s.cfg
            (pixelIndex (s.plane 0 (s.renderer.start + y * s.renderer.pitch + x / 8))
              (s.plane 1 (s.renderer.start + y * s.renderer.pitch + x / 8))
              (s.plane 2 (s.renderer.start + y * s.renderer.pitch + x / 8))
              (s.plane 3 (s.renderer.start + y * s.renderer.pitch + x / 8)) (Fin.ofNat 8 (x % 8))))
      ∧ t.renderer.phase = .frameEnd ∧ t.renderer.y = 350 ∧ t.planes = s.planes ∧ t.fault = none

/-! ## Invariants of every step -/

/-- R7, R11, R32: no step changes a parameter, the palette and NCLIENTS among them. -/
def Obligations.StepKeepsTheParameters : Prop :=
  ∀ s t : State, step s = .next t → t.cfg = s.cfg ∧ t.clients.length = s.clients.length

/-- Registers, planes and framebuffer are in canonical form at reset. That they list nothing is the model's choice, not
the spec's, which leaves their contents unspecified (assumptions 1 and 3). -/
def Obligations.ResetIsCanonical : Prop := Canonical State.reset

/-- Every step keeps registers, planes and framebuffer in canonical form. -/
def Obligations.StepKeepsCanonicalForm : Prop :=
  ∀ s t : State, Canonical s → step s = .next t → Canonical t

/-- R62, R30: every step keeps plane memory inside PLANE_BYTES. -/
def Obligations.StepKeepsPlanesInRange : Prop :=
  ∀ s t : State, PlanesInRange s → step s = .next t → PlanesInRange t

/-- R27, R33: every step only appends to the history, and the history holds one fault exactly when one is recorded. -/
def Obligations.StepRecordsOneFaultAtMost : Prop :=
  ∀ s t : State, OneFault s → step s = .next t →
    OneFault t ∧ ∃ more : List (Agent × Event), t.history = more ++ s.history

/-- R71, R27: every plane read returned the latest byte written to its cell before it, and every plane byte is the last
one written, over any contents at reset. -/
def Obligations.PlaneReadsReturnTheLatestWrite : Prop :=
  ∀ (base : Memory) (s t : State), PlanesExplained base s → step s = .next t → PlanesExplained base t

/-- R71, R20, R69: every read of a known register returned the value the writes and status updates before it left, and
every known cell holds the value those in the whole history leave, over any contents at reset. -/
def Obligations.RegisterReadsReturnTheLatestWrite : Prop :=
  ∀ (base : Memory) (s t : State), RegsExplained base s → step s = .next t → RegsExplained base t

/-- R22: no step changes a bit of the status byte other than VR and DE. -/
def Obligations.StatusBitsWithoutMeaningNeverChange : Prop :=
  ∀ s t : State, step s = .next t →
    t.status &&& ~~~ (s.cfg.vrMask ||| s.cfg.deMask) = s.status &&& ~~~ (s.cfg.vrMask ||| s.cfg.deMask)

/-- R190, R191: readings never decrease, and every Sleep and Overrun is within its bounds. -/
def Obligations.PacingStaysWithinBounds : Prop :=
  ∀ s t : State, TimesOk s → step s = .next t → TimesOk t ∧ s.now ≤ t.now

/-- At reset the invariants of StepRecordsOneFaultAtMost, PacingStaysWithinBounds and StepKeepsTheRendererInPosition
hold: their base case. Phase, history and FAULT are R38's; the clause on times holds by the model's choice, not the
spec's, which leaves them unspecified: t0 is 0 (assumption 3) and so is the reading before the first (assumption 8). -/
def Obligations.ResetIsInPosition : Prop := RendererInPosition State.reset ∧ OneFault State.reset ∧ TimesOk State.reset

/-- R160, R162, R172, R173, R204: every step, of whichever agent, keeps the renderer in position: its phase in the loop
of R160, its row base at start + y * pitch, VR and DE as R204's table has them there, after an earlier frame too. -/
def Obligations.StepKeepsTheRendererInPosition : Prop :=
  ∀ s t : State, s.cfg.wf = true → RendererInPosition s → step s = .next t → RendererInPosition t

/-! ## Agents that do not move -/

/-- R217: a client blocked in START_RENDERING has no step again: whoever moves, its stream and all its private state stay as
they are. -/
def Obligations.BlockedClientNeverMovesAgain : Prop :=
  ∀ (s t : State) (k : Nat) (c : Client), s.clients[k]? = some c → c.blocked = true → step s = .next t →
    s.agentEnabled (.client k) = false ∧ t.clients[k]? = some c

/-- R167, R192, U21: the host is under no duty to answer. Where it gives none, the renderer stays held, no fault is
recorded, and with no client able to move nothing happens; where it gives one, the draws hold it and the renderer has its
step. Whether it answers is a free value each time it is heard, and a wait is a step that counts that value (assumption
18). -/
def Obligations.SilentHostLeavesTheRendererHeld : Prop :=
  ∀ s : State, s.running = true → s.sched = [] → s.noClientMoves →
    (s.renderer.hold = some .present → s.draws.presents = [] → Config.freePresent s.draws.count = none →
      s.mover = none ∧ step s = .next { s with draws := { s.draws with count := s.draws.count + 1 } }) ∧
    (s.renderer.hold = some .sleep → s.draws.wakes = 0 → Config.freeWake s.draws.count = false →
      s.mover = none ∧ step s = .next { s with draws := { s.draws with count := s.draws.count + 1 } }) ∧
    (∀ o, s.renderer.hold = some .present → s.draws.presents = [] → Config.freePresent s.draws.count = some o →
      s.renderer.ops ≠ [] →
      s.hearHost.draws.presents = [o] ∧ s.mover = some .renderer
        ∧ step s = .next (runRenderer s.renderer.ops none { s.hearHost with grant := none })) ∧
    (s.renderer.hold = some .sleep → s.draws.wakes = 0 → Config.freeWake s.draws.count = true →
      s.renderer.ops ≠ [] →
      s.hearHost.draws.wakes = 1 ∧ s.mover = some .renderer
        ∧ step s = .next (runRenderer s.renderer.ops none { s.hearHost with grant := none }))
end

