-- ==== Sys2Proof/Laws/State.lean ====
section
/-! SUPPORT. The state's small laws: what each named update does to each field, and which derived readings it leaves
alone. All are true by unfolding once, so that no later proof unfolds a record update. -/

namespace Sys2Proof.Machine

variable (s : State)

/-! ## log -/

@[simp] theorem State.log_cfg (ag : Agent) (e : Event) :
    (s.log ag e).cfg = s.cfg := rfl
@[simp] theorem State.log_regs (ag : Agent) (e : Event) :
    (s.log ag e).regs = s.regs := rfl
@[simp] theorem State.log_planes (ag : Agent) (e : Event) :
    (s.log ag e).planes = s.planes := rfl
@[simp] theorem State.log_fb (ag : Agent) (e : Event) :
    (s.log ag e).fb = s.fb := rfl
@[simp] theorem State.log_renderer (ag : Agent) (e : Event) :
    (s.log ag e).renderer = s.renderer := rfl
@[simp] theorem State.log_clients (ag : Agent) (e : Event) :
    (s.log ag e).clients = s.clients := rfl
@[simp] theorem State.log_history (ag : Agent) (e : Event) :
    (s.log ag e).history = (ag, e) :: s.history := rfl
@[simp] theorem State.log_fault (ag : Agent) (e : Event) :
    (s.log ag e).fault = s.fault := rfl
@[simp] theorem State.log_now (ag : Agent) (e : Event) :
    (s.log ag e).now = s.now := rfl
@[simp] theorem State.log_issuer (ag : Agent) (e : Event) :
    (s.log ag e).issuer = s.issuer := rfl
@[simp] theorem State.log_grant (ag : Agent) (e : Event) :
    (s.log ag e).grant = s.grant := rfl
@[simp] theorem State.log_sched (ag : Agent) (e : Event) :
    (s.log ag e).sched = s.sched := rfl
@[simp] theorem State.log_draws (ag : Agent) (e : Event) :
    (s.log ag e).draws = s.draws := rfl

/-! ## raise -/

@[simp] theorem State.raise_cfg (ag : Agent) (f : FaultRecord) :
    (s.raise ag f).cfg = s.cfg := rfl
@[simp] theorem State.raise_regs (ag : Agent) (f : FaultRecord) :
    (s.raise ag f).regs = s.regs := rfl
@[simp] theorem State.raise_planes (ag : Agent) (f : FaultRecord) :
    (s.raise ag f).planes = s.planes := rfl
@[simp] theorem State.raise_fb (ag : Agent) (f : FaultRecord) :
    (s.raise ag f).fb = s.fb := rfl
@[simp] theorem State.raise_renderer (ag : Agent) (f : FaultRecord) :
    (s.raise ag f).renderer = s.renderer := rfl
@[simp] theorem State.raise_clients (ag : Agent) (f : FaultRecord) :
    (s.raise ag f).clients = s.clients := rfl
@[simp] theorem State.raise_history (ag : Agent) (f : FaultRecord) :
    (s.raise ag f).history = (ag, .fault f) :: s.history := rfl
@[simp] theorem State.raise_fault (ag : Agent) (f : FaultRecord) :
    (s.raise ag f).fault = some f := rfl
@[simp] theorem State.raise_now (ag : Agent) (f : FaultRecord) :
    (s.raise ag f).now = s.now := rfl
@[simp] theorem State.raise_issuer (ag : Agent) (f : FaultRecord) :
    (s.raise ag f).issuer = s.issuer := rfl
@[simp] theorem State.raise_grant (ag : Agent) (f : FaultRecord) :
    (s.raise ag f).grant = s.grant := rfl
@[simp] theorem State.raise_sched (ag : Agent) (f : FaultRecord) :
    (s.raise ag f).sched = s.sched := rfl
@[simp] theorem State.raise_draws (ag : Agent) (f : FaultRecord) :
    (s.raise ag f).draws = s.draws := rfl

/-! ## setCell -/

@[simp] theorem State.setCell_cfg (bank : Bank) (id v : Byte) :
    (s.setCell bank id v).cfg = s.cfg := rfl
@[simp] theorem State.setCell_regs (bank : Bank) (id v : Byte) :
    (s.setCell bank id v).regs = cellsPut unlistedByte (regKey bank id) v s.regs := rfl
@[simp] theorem State.setCell_planes (bank : Bank) (id v : Byte) :
    (s.setCell bank id v).planes = s.planes := rfl
@[simp] theorem State.setCell_fb (bank : Bank) (id v : Byte) :
    (s.setCell bank id v).fb = s.fb := rfl
@[simp] theorem State.setCell_renderer (bank : Bank) (id v : Byte) :
    (s.setCell bank id v).renderer = s.renderer := rfl
@[simp] theorem State.setCell_clients (bank : Bank) (id v : Byte) :
    (s.setCell bank id v).clients = s.clients := rfl
@[simp] theorem State.setCell_history (bank : Bank) (id v : Byte) :
    (s.setCell bank id v).history = s.history := rfl
@[simp] theorem State.setCell_fault (bank : Bank) (id v : Byte) :
    (s.setCell bank id v).fault = s.fault := rfl
@[simp] theorem State.setCell_now (bank : Bank) (id v : Byte) :
    (s.setCell bank id v).now = s.now := rfl
@[simp] theorem State.setCell_issuer (bank : Bank) (id v : Byte) :
    (s.setCell bank id v).issuer = s.issuer := rfl
@[simp] theorem State.setCell_grant (bank : Bank) (id v : Byte) :
    (s.setCell bank id v).grant = s.grant := rfl
@[simp] theorem State.setCell_sched (bank : Bank) (id v : Byte) :
    (s.setCell bank id v).sched = s.sched := rfl
@[simp] theorem State.setCell_draws (bank : Bank) (id v : Byte) :
    (s.setCell bank id v).draws = s.draws := rfl

/-! ## setPlane -/

@[simp] theorem State.setPlane_cfg (k : Fin 4) (a : Nat) (v : Byte) :
    (s.setPlane k a v).cfg = s.cfg := rfl
@[simp] theorem State.setPlane_regs (k : Fin 4) (a : Nat) (v : Byte) :
    (s.setPlane k a v).regs = s.regs := rfl
@[simp] theorem State.setPlane_planes (k : Fin 4) (a : Nat) (v : Byte) :
    (s.setPlane k a v).planes = cellsPut unlistedByte (planeKey k a) v s.planes := rfl
@[simp] theorem State.setPlane_fb (k : Fin 4) (a : Nat) (v : Byte) :
    (s.setPlane k a v).fb = s.fb := rfl
@[simp] theorem State.setPlane_renderer (k : Fin 4) (a : Nat) (v : Byte) :
    (s.setPlane k a v).renderer = s.renderer := rfl
@[simp] theorem State.setPlane_clients (k : Fin 4) (a : Nat) (v : Byte) :
    (s.setPlane k a v).clients = s.clients := rfl
@[simp] theorem State.setPlane_history (k : Fin 4) (a : Nat) (v : Byte) :
    (s.setPlane k a v).history = s.history := rfl
@[simp] theorem State.setPlane_fault (k : Fin 4) (a : Nat) (v : Byte) :
    (s.setPlane k a v).fault = s.fault := rfl
@[simp] theorem State.setPlane_now (k : Fin 4) (a : Nat) (v : Byte) :
    (s.setPlane k a v).now = s.now := rfl
@[simp] theorem State.setPlane_issuer (k : Fin 4) (a : Nat) (v : Byte) :
    (s.setPlane k a v).issuer = s.issuer := rfl
@[simp] theorem State.setPlane_grant (k : Fin 4) (a : Nat) (v : Byte) :
    (s.setPlane k a v).grant = s.grant := rfl
@[simp] theorem State.setPlane_sched (k : Fin 4) (a : Nat) (v : Byte) :
    (s.setPlane k a v).sched = s.sched := rfl
@[simp] theorem State.setPlane_draws (k : Fin 4) (a : Nat) (v : Byte) :
    (s.setPlane k a v).draws = s.draws := rfl

/-! ## readReg -/

@[simp] theorem State.readReg_cfg (ag : Agent) (bank : Bank) (id : Byte) :
    (s.readReg ag bank id).cfg = s.cfg := rfl
@[simp] theorem State.readReg_regs (ag : Agent) (bank : Bank) (id : Byte) :
    (s.readReg ag bank id).regs = s.regs := rfl
@[simp] theorem State.readReg_planes (ag : Agent) (bank : Bank) (id : Byte) :
    (s.readReg ag bank id).planes = s.planes := rfl
@[simp] theorem State.readReg_fb (ag : Agent) (bank : Bank) (id : Byte) :
    (s.readReg ag bank id).fb = s.fb := rfl
@[simp] theorem State.readReg_renderer (ag : Agent) (bank : Bank) (id : Byte) :
    (s.readReg ag bank id).renderer = s.renderer := rfl
@[simp] theorem State.readReg_clients (ag : Agent) (bank : Bank) (id : Byte) :
    (s.readReg ag bank id).clients = s.clients := rfl
@[simp] theorem State.readReg_history (ag : Agent) (bank : Bank) (id : Byte) :
    (s.readReg ag bank id).history = (ag, .regRead bank id (s.reg bank id)) :: s.history := rfl
@[simp] theorem State.readReg_fault (ag : Agent) (bank : Bank) (id : Byte) :
    (s.readReg ag bank id).fault = s.fault := rfl
@[simp] theorem State.readReg_now (ag : Agent) (bank : Bank) (id : Byte) :
    (s.readReg ag bank id).now = s.now := rfl
@[simp] theorem State.readReg_issuer (ag : Agent) (bank : Bank) (id : Byte) :
    (s.readReg ag bank id).issuer = s.issuer := rfl
@[simp] theorem State.readReg_grant (ag : Agent) (bank : Bank) (id : Byte) :
    (s.readReg ag bank id).grant = s.grant := rfl
@[simp] theorem State.readReg_sched (ag : Agent) (bank : Bank) (id : Byte) :
    (s.readReg ag bank id).sched = s.sched := rfl
@[simp] theorem State.readReg_draws (ag : Agent) (bank : Bank) (id : Byte) :
    (s.readReg ag bank id).draws = s.draws := rfl

/-! ## modifyClient -/

@[simp] theorem State.modifyClient_cfg (k : Nat) (f : Client → Client) :
    (s.modifyClient k f).cfg = s.cfg := rfl
@[simp] theorem State.modifyClient_regs (k : Nat) (f : Client → Client) :
    (s.modifyClient k f).regs = s.regs := rfl
@[simp] theorem State.modifyClient_planes (k : Nat) (f : Client → Client) :
    (s.modifyClient k f).planes = s.planes := rfl
@[simp] theorem State.modifyClient_fb (k : Nat) (f : Client → Client) :
    (s.modifyClient k f).fb = s.fb := rfl
@[simp] theorem State.modifyClient_renderer (k : Nat) (f : Client → Client) :
    (s.modifyClient k f).renderer = s.renderer := rfl
@[simp] theorem State.modifyClient_clients (k : Nat) (f : Client → Client) :
    (s.modifyClient k f).clients = s.clients.modify k f := rfl
@[simp] theorem State.modifyClient_history (k : Nat) (f : Client → Client) :
    (s.modifyClient k f).history = s.history := rfl
@[simp] theorem State.modifyClient_fault (k : Nat) (f : Client → Client) :
    (s.modifyClient k f).fault = s.fault := rfl
@[simp] theorem State.modifyClient_now (k : Nat) (f : Client → Client) :
    (s.modifyClient k f).now = s.now := rfl
@[simp] theorem State.modifyClient_issuer (k : Nat) (f : Client → Client) :
    (s.modifyClient k f).issuer = s.issuer := rfl
@[simp] theorem State.modifyClient_grant (k : Nat) (f : Client → Client) :
    (s.modifyClient k f).grant = s.grant := rfl
@[simp] theorem State.modifyClient_sched (k : Nat) (f : Client → Client) :
    (s.modifyClient k f).sched = s.sched := rfl
@[simp] theorem State.modifyClient_draws (k : Nat) (f : Client → Client) :
    (s.modifyClient k f).draws = s.draws := rfl

/-! ## modifyRenderer -/

@[simp] theorem State.modifyRenderer_cfg (f : Renderer → Renderer) :
    (s.modifyRenderer f).cfg = s.cfg := rfl
@[simp] theorem State.modifyRenderer_regs (f : Renderer → Renderer) :
    (s.modifyRenderer f).regs = s.regs := rfl
@[simp] theorem State.modifyRenderer_planes (f : Renderer → Renderer) :
    (s.modifyRenderer f).planes = s.planes := rfl
@[simp] theorem State.modifyRenderer_fb (f : Renderer → Renderer) :
    (s.modifyRenderer f).fb = s.fb := rfl
@[simp] theorem State.modifyRenderer_renderer (f : Renderer → Renderer) :
    (s.modifyRenderer f).renderer = f s.renderer := rfl
@[simp] theorem State.modifyRenderer_clients (f : Renderer → Renderer) :
    (s.modifyRenderer f).clients = s.clients := rfl
@[simp] theorem State.modifyRenderer_history (f : Renderer → Renderer) :
    (s.modifyRenderer f).history = s.history := rfl
@[simp] theorem State.modifyRenderer_fault (f : Renderer → Renderer) :
    (s.modifyRenderer f).fault = s.fault := rfl
@[simp] theorem State.modifyRenderer_now (f : Renderer → Renderer) :
    (s.modifyRenderer f).now = s.now := rfl
@[simp] theorem State.modifyRenderer_issuer (f : Renderer → Renderer) :
    (s.modifyRenderer f).issuer = s.issuer := rfl
@[simp] theorem State.modifyRenderer_grant (f : Renderer → Renderer) :
    (s.modifyRenderer f).grant = s.grant := rfl
@[simp] theorem State.modifyRenderer_sched (f : Renderer → Renderer) :
    (s.modifyRenderer f).sched = s.sched := rfl
@[simp] theorem State.modifyRenderer_draws (f : Renderer → Renderer) :
    (s.modifyRenderer f).draws = s.draws := rfl

/-! ## latchByte -/

@[simp] theorem State.latchByte_cfg (k : Nat) (slot : Fin 4) (v : Byte) :
    (s.latchByte k slot v).cfg = s.cfg := rfl
@[simp] theorem State.latchByte_regs (k : Nat) (slot : Fin 4) (v : Byte) :
    (s.latchByte k slot v).regs = s.regs := rfl
@[simp] theorem State.latchByte_planes (k : Nat) (slot : Fin 4) (v : Byte) :
    (s.latchByte k slot v).planes = s.planes := rfl
@[simp] theorem State.latchByte_fb (k : Nat) (slot : Fin 4) (v : Byte) :
    (s.latchByte k slot v).fb = s.fb := rfl
@[simp] theorem State.latchByte_renderer (k : Nat) (slot : Fin 4) (v : Byte) :
    (s.latchByte k slot v).renderer = s.renderer := rfl
@[simp] theorem State.latchByte_clients (k : Nat) (slot : Fin 4) (v : Byte) :
    (s.latchByte k slot v).clients = s.clients.modify k fun c => { c with latch := c.latch.set slot v } := rfl
@[simp] theorem State.latchByte_history (k : Nat) (slot : Fin 4) (v : Byte) :
    (s.latchByte k slot v).history = s.history := rfl
@[simp] theorem State.latchByte_fault (k : Nat) (slot : Fin 4) (v : Byte) :
    (s.latchByte k slot v).fault = s.fault := rfl
@[simp] theorem State.latchByte_now (k : Nat) (slot : Fin 4) (v : Byte) :
    (s.latchByte k slot v).now = s.now := rfl
@[simp] theorem State.latchByte_issuer (k : Nat) (slot : Fin 4) (v : Byte) :
    (s.latchByte k slot v).issuer = s.issuer := rfl
@[simp] theorem State.latchByte_grant (k : Nat) (slot : Fin 4) (v : Byte) :
    (s.latchByte k slot v).grant = s.grant := rfl
@[simp] theorem State.latchByte_sched (k : Nat) (slot : Fin 4) (v : Byte) :
    (s.latchByte k slot v).sched = s.sched := rfl
@[simp] theorem State.latchByte_draws (k : Nat) (slot : Fin 4) (v : Byte) :
    (s.latchByte k slot v).draws = s.draws := rfl

/-! ## unhold -/

@[simp] theorem State.unhold_cfg :
    (s.unhold).cfg = s.cfg := rfl
@[simp] theorem State.unhold_regs :
    (s.unhold).regs = s.regs := rfl
@[simp] theorem State.unhold_planes :
    (s.unhold).planes = s.planes := rfl
@[simp] theorem State.unhold_fb :
    (s.unhold).fb = s.fb := rfl
@[simp] theorem State.unhold_renderer :
    (s.unhold).renderer = { s.renderer with hold := none } := rfl
@[simp] theorem State.unhold_clients :
    (s.unhold).clients = s.clients := rfl
@[simp] theorem State.unhold_history :
    (s.unhold).history = s.history := rfl
@[simp] theorem State.unhold_fault :
    (s.unhold).fault = s.fault := rfl
@[simp] theorem State.unhold_now :
    (s.unhold).now = s.now := rfl
@[simp] theorem State.unhold_issuer :
    (s.unhold).issuer = s.issuer := rfl
@[simp] theorem State.unhold_grant :
    (s.unhold).grant = s.grant := rfl
@[simp] theorem State.unhold_sched :
    (s.unhold).sched = s.sched := rfl
@[simp] theorem State.unhold_draws :
    (s.unhold).draws = s.draws := rfl

/-! ## countDraw -/

@[simp] theorem State.countDraw_cfg :
    (s.countDraw).cfg = s.cfg := rfl
@[simp] theorem State.countDraw_regs :
    (s.countDraw).regs = s.regs := rfl
@[simp] theorem State.countDraw_planes :
    (s.countDraw).planes = s.planes := rfl
@[simp] theorem State.countDraw_fb :
    (s.countDraw).fb = s.fb := rfl
@[simp] theorem State.countDraw_renderer :
    (s.countDraw).renderer = s.renderer := rfl
@[simp] theorem State.countDraw_clients :
    (s.countDraw).clients = s.clients := rfl
@[simp] theorem State.countDraw_history :
    (s.countDraw).history = s.history := rfl
@[simp] theorem State.countDraw_fault :
    (s.countDraw).fault = s.fault := rfl
@[simp] theorem State.countDraw_now :
    (s.countDraw).now = s.now := rfl
@[simp] theorem State.countDraw_issuer :
    (s.countDraw).issuer = s.issuer := rfl
@[simp] theorem State.countDraw_grant :
    (s.countDraw).grant = s.grant := rfl
@[simp] theorem State.countDraw_sched :
    (s.countDraw).sched = s.sched := rfl
@[simp] theorem State.countDraw_draws :
    (s.countDraw).draws = { s.draws with count := s.draws.count + 1 } := rfl

/-! ## Derived readings -/

@[simp] theorem State.log_reg (ag : Agent) (e : Event) (bank' : Bank) (id' : Byte) :
    (s.log ag e).reg bank' id' = s.reg bank' id' := rfl
@[simp] theorem State.log_plane (ag : Agent) (e : Event) (k' : Fin 4) (a' : Nat) :
    (s.log ag e).plane k' a' = s.plane k' a' := rfl
@[simp] theorem State.log_pixel (ag : Agent) (e : Event) (y x : Nat) :
    (s.log ag e).pixel y x = s.pixel y x := rfl
@[simp] theorem State.log_status (ag : Agent) (e : Event) :
    (s.log ag e).status = s.status := rfl
@[simp] theorem State.log_mapMask (ag : Agent) (e : Event) :
    (s.log ag e).mapMask = s.mapMask := rfl
@[simp] theorem State.log_knows (ag : Agent) (e : Event) (bank' : Bank) (id' : Byte) :
    (s.log ag e).knows bank' id' = s.knows bank' id' := rfl
@[simp] theorem State.log_inBounds (ag : Agent) (e : Event) (a' : Nat) :
    (s.log ag e).inBounds a' = s.inBounds a' := rfl
@[simp] theorem State.log_vr (ag : Agent) (e : Event) :
    (s.log ag e).vr = s.vr := rfl
@[simp] theorem State.log_de (ag : Agent) (e : Event) :
    (s.log ag e).de = s.de := rfl
@[simp] theorem State.log_running (ag : Agent) (e : Event) :
    (s.log ag e).running = s.running := rfl
@[simp] theorem State.log_answered (ag : Agent) (e : Event) :
    (s.log ag e).answered = s.answered := rfl
@[simp] theorem State.raise_reg (ag : Agent) (f : FaultRecord) (bank' : Bank) (id' : Byte) :
    (s.raise ag f).reg bank' id' = s.reg bank' id' := rfl
@[simp] theorem State.raise_plane (ag : Agent) (f : FaultRecord) (k' : Fin 4) (a' : Nat) :
    (s.raise ag f).plane k' a' = s.plane k' a' := rfl
@[simp] theorem State.raise_pixel (ag : Agent) (f : FaultRecord) (y x : Nat) :
    (s.raise ag f).pixel y x = s.pixel y x := rfl
@[simp] theorem State.raise_status (ag : Agent) (f : FaultRecord) :
    (s.raise ag f).status = s.status := rfl
@[simp] theorem State.raise_mapMask (ag : Agent) (f : FaultRecord) :
    (s.raise ag f).mapMask = s.mapMask := rfl
@[simp] theorem State.raise_knows (ag : Agent) (f : FaultRecord) (bank' : Bank) (id' : Byte) :
    (s.raise ag f).knows bank' id' = s.knows bank' id' := rfl
@[simp] theorem State.raise_inBounds (ag : Agent) (f : FaultRecord) (a' : Nat) :
    (s.raise ag f).inBounds a' = s.inBounds a' := rfl
@[simp] theorem State.raise_vr (ag : Agent) (f : FaultRecord) :
    (s.raise ag f).vr = s.vr := rfl
@[simp] theorem State.raise_de (ag : Agent) (f : FaultRecord) :
    (s.raise ag f).de = s.de := rfl
@[simp] theorem State.raise_answered (ag : Agent) (f : FaultRecord) :
    (s.raise ag f).answered = s.answered := rfl
@[simp] theorem State.setCell_plane (bank : Bank) (id v : Byte) (k' : Fin 4) (a' : Nat) :
    (s.setCell bank id v).plane k' a' = s.plane k' a' := rfl
@[simp] theorem State.setCell_pixel (bank : Bank) (id v : Byte) (y x : Nat) :
    (s.setCell bank id v).pixel y x = s.pixel y x := rfl
@[simp] theorem State.setCell_knows (bank : Bank) (id v : Byte) (bank' : Bank) (id' : Byte) :
    (s.setCell bank id v).knows bank' id' = s.knows bank' id' := rfl
@[simp] theorem State.setCell_inBounds (bank : Bank) (id v : Byte) (a' : Nat) :
    (s.setCell bank id v).inBounds a' = s.inBounds a' := rfl
@[simp] theorem State.setCell_running (bank : Bank) (id v : Byte) :
    (s.setCell bank id v).running = s.running := rfl
@[simp] theorem State.setCell_answered (bank : Bank) (id v : Byte) :
    (s.setCell bank id v).answered = s.answered := rfl
@[simp] theorem State.setPlane_reg (k : Fin 4) (a : Nat) (v : Byte) (bank' : Bank) (id' : Byte) :
    (s.setPlane k a v).reg bank' id' = s.reg bank' id' := rfl
@[simp] theorem State.setPlane_pixel (k : Fin 4) (a : Nat) (v : Byte) (y x : Nat) :
    (s.setPlane k a v).pixel y x = s.pixel y x := rfl
@[simp] theorem State.setPlane_status (k : Fin 4) (a : Nat) (v : Byte) :
    (s.setPlane k a v).status = s.status := rfl
@[simp] theorem State.setPlane_mapMask (k : Fin 4) (a : Nat) (v : Byte) :
    (s.setPlane k a v).mapMask = s.mapMask := rfl
@[simp] theorem State.setPlane_knows (k : Fin 4) (a : Nat) (v : Byte) (bank' : Bank) (id' : Byte) :
    (s.setPlane k a v).knows bank' id' = s.knows bank' id' := rfl
@[simp] theorem State.setPlane_inBounds (k : Fin 4) (a : Nat) (v : Byte) (a' : Nat) :
    (s.setPlane k a v).inBounds a' = s.inBounds a' := rfl
@[simp] theorem State.setPlane_vr (k : Fin 4) (a : Nat) (v : Byte) :
    (s.setPlane k a v).vr = s.vr := rfl
@[simp] theorem State.setPlane_de (k : Fin 4) (a : Nat) (v : Byte) :
    (s.setPlane k a v).de = s.de := rfl
@[simp] theorem State.setPlane_running (k : Fin 4) (a : Nat) (v : Byte) :
    (s.setPlane k a v).running = s.running := rfl
@[simp] theorem State.setPlane_answered (k : Fin 4) (a : Nat) (v : Byte) :
    (s.setPlane k a v).answered = s.answered := rfl
@[simp] theorem State.readReg_reg (ag : Agent) (bank : Bank) (id : Byte) (bank' : Bank) (id' : Byte) :
    (s.readReg ag bank id).reg bank' id' = s.reg bank' id' := rfl
@[simp] theorem State.readReg_plane (ag : Agent) (bank : Bank) (id : Byte) (k' : Fin 4) (a' : Nat) :
    (s.readReg ag bank id).plane k' a' = s.plane k' a' := rfl
@[simp] theorem State.readReg_pixel (ag : Agent) (bank : Bank) (id : Byte) (y x : Nat) :
    (s.readReg ag bank id).pixel y x = s.pixel y x := rfl
@[simp] theorem State.readReg_status (ag : Agent) (bank : Bank) (id : Byte) :
    (s.readReg ag bank id).status = s.status := rfl
@[simp] theorem State.readReg_mapMask (ag : Agent) (bank : Bank) (id : Byte) :
    (s.readReg ag bank id).mapMask = s.mapMask := rfl
@[simp] theorem State.readReg_knows (ag : Agent) (bank : Bank) (id : Byte) (bank' : Bank) (id' : Byte) :
    (s.readReg ag bank id).knows bank' id' = s.knows bank' id' := rfl
@[simp] theorem State.readReg_inBounds (ag : Agent) (bank : Bank) (id : Byte) (a' : Nat) :
    (s.readReg ag bank id).inBounds a' = s.inBounds a' := rfl
@[simp] theorem State.readReg_vr (ag : Agent) (bank : Bank) (id : Byte) :
    (s.readReg ag bank id).vr = s.vr := rfl
@[simp] theorem State.readReg_de (ag : Agent) (bank : Bank) (id : Byte) :
    (s.readReg ag bank id).de = s.de := rfl
@[simp] theorem State.readReg_running (ag : Agent) (bank : Bank) (id : Byte) :
    (s.readReg ag bank id).running = s.running := rfl
@[simp] theorem State.readReg_answered (ag : Agent) (bank : Bank) (id : Byte) :
    (s.readReg ag bank id).answered = s.answered := rfl
@[simp] theorem State.modifyClient_reg (k : Nat) (f : Client → Client) (bank' : Bank) (id' : Byte) :
    (s.modifyClient k f).reg bank' id' = s.reg bank' id' := rfl
@[simp] theorem State.modifyClient_plane (k : Nat) (f : Client → Client) (k' : Fin 4) (a' : Nat) :
    (s.modifyClient k f).plane k' a' = s.plane k' a' := rfl
@[simp] theorem State.modifyClient_pixel (k : Nat) (f : Client → Client) (y x : Nat) :
    (s.modifyClient k f).pixel y x = s.pixel y x := rfl
@[simp] theorem State.modifyClient_status (k : Nat) (f : Client → Client) :
    (s.modifyClient k f).status = s.status := rfl
@[simp] theorem State.modifyClient_mapMask (k : Nat) (f : Client → Client) :
    (s.modifyClient k f).mapMask = s.mapMask := rfl
@[simp] theorem State.modifyClient_knows (k : Nat) (f : Client → Client) (bank' : Bank) (id' : Byte) :
    (s.modifyClient k f).knows bank' id' = s.knows bank' id' := rfl
@[simp] theorem State.modifyClient_inBounds (k : Nat) (f : Client → Client) (a' : Nat) :
    (s.modifyClient k f).inBounds a' = s.inBounds a' := rfl
@[simp] theorem State.modifyClient_vr (k : Nat) (f : Client → Client) :
    (s.modifyClient k f).vr = s.vr := rfl
@[simp] theorem State.modifyClient_de (k : Nat) (f : Client → Client) :
    (s.modifyClient k f).de = s.de := rfl
@[simp] theorem State.modifyClient_running (k : Nat) (f : Client → Client) :
    (s.modifyClient k f).running = s.running := rfl
@[simp] theorem State.modifyClient_answered (k : Nat) (f : Client → Client) :
    (s.modifyClient k f).answered = s.answered := rfl
@[simp] theorem State.modifyRenderer_reg (f : Renderer → Renderer) (bank' : Bank) (id' : Byte) :
    (s.modifyRenderer f).reg bank' id' = s.reg bank' id' := rfl
@[simp] theorem State.modifyRenderer_plane (f : Renderer → Renderer) (k' : Fin 4) (a' : Nat) :
    (s.modifyRenderer f).plane k' a' = s.plane k' a' := rfl
@[simp] theorem State.modifyRenderer_pixel (f : Renderer → Renderer) (y x : Nat) :
    (s.modifyRenderer f).pixel y x = s.pixel y x := rfl
@[simp] theorem State.modifyRenderer_status (f : Renderer → Renderer) :
    (s.modifyRenderer f).status = s.status := rfl
@[simp] theorem State.modifyRenderer_mapMask (f : Renderer → Renderer) :
    (s.modifyRenderer f).mapMask = s.mapMask := rfl
@[simp] theorem State.modifyRenderer_knows (f : Renderer → Renderer) (bank' : Bank) (id' : Byte) :
    (s.modifyRenderer f).knows bank' id' = s.knows bank' id' := rfl
@[simp] theorem State.modifyRenderer_inBounds (f : Renderer → Renderer) (a' : Nat) :
    (s.modifyRenderer f).inBounds a' = s.inBounds a' := rfl
@[simp] theorem State.modifyRenderer_vr (f : Renderer → Renderer) :
    (s.modifyRenderer f).vr = s.vr := rfl
@[simp] theorem State.modifyRenderer_de (f : Renderer → Renderer) :
    (s.modifyRenderer f).de = s.de := rfl
@[simp] theorem State.latchByte_reg (k : Nat) (slot : Fin 4) (v : Byte) (bank' : Bank) (id' : Byte) :
    (s.latchByte k slot v).reg bank' id' = s.reg bank' id' := rfl
@[simp] theorem State.latchByte_plane (k : Nat) (slot : Fin 4) (v : Byte) (k' : Fin 4) (a' : Nat) :
    (s.latchByte k slot v).plane k' a' = s.plane k' a' := rfl
@[simp] theorem State.latchByte_pixel (k : Nat) (slot : Fin 4) (v : Byte) (y x : Nat) :
    (s.latchByte k slot v).pixel y x = s.pixel y x := rfl
@[simp] theorem State.latchByte_status (k : Nat) (slot : Fin 4) (v : Byte) :
    (s.latchByte k slot v).status = s.status := rfl
@[simp] theorem State.latchByte_mapMask (k : Nat) (slot : Fin 4) (v : Byte) :
    (s.latchByte k slot v).mapMask = s.mapMask := rfl
@[simp] theorem State.latchByte_knows (k : Nat) (slot : Fin 4) (v : Byte) (bank' : Bank) (id' : Byte) :
    (s.latchByte k slot v).knows bank' id' = s.knows bank' id' := rfl
@[simp] theorem State.latchByte_inBounds (k : Nat) (slot : Fin 4) (v : Byte) (a' : Nat) :
    (s.latchByte k slot v).inBounds a' = s.inBounds a' := rfl
@[simp] theorem State.latchByte_vr (k : Nat) (slot : Fin 4) (v : Byte) :
    (s.latchByte k slot v).vr = s.vr := rfl
@[simp] theorem State.latchByte_de (k : Nat) (slot : Fin 4) (v : Byte) :
    (s.latchByte k slot v).de = s.de := rfl
@[simp] theorem State.latchByte_running (k : Nat) (slot : Fin 4) (v : Byte) :
    (s.latchByte k slot v).running = s.running := rfl
@[simp] theorem State.latchByte_answered (k : Nat) (slot : Fin 4) (v : Byte) :
    (s.latchByte k slot v).answered = s.answered := rfl
@[simp] theorem State.unhold_reg (bank' : Bank) (id' : Byte) :
    (s.unhold).reg bank' id' = s.reg bank' id' := rfl
@[simp] theorem State.unhold_plane (k' : Fin 4) (a' : Nat) :
    (s.unhold).plane k' a' = s.plane k' a' := rfl
@[simp] theorem State.unhold_pixel (y x : Nat) :
    (s.unhold).pixel y x = s.pixel y x := rfl
@[simp] theorem State.unhold_status :
    (s.unhold).status = s.status := rfl
@[simp] theorem State.unhold_mapMask :
    (s.unhold).mapMask = s.mapMask := rfl
@[simp] theorem State.unhold_knows (bank' : Bank) (id' : Byte) :
    (s.unhold).knows bank' id' = s.knows bank' id' := rfl
@[simp] theorem State.unhold_inBounds (a' : Nat) :
    (s.unhold).inBounds a' = s.inBounds a' := rfl
@[simp] theorem State.unhold_vr :
    (s.unhold).vr = s.vr := rfl
@[simp] theorem State.unhold_de :
    (s.unhold).de = s.de := rfl
@[simp] theorem State.countDraw_reg (bank' : Bank) (id' : Byte) :
    (s.countDraw).reg bank' id' = s.reg bank' id' := rfl
@[simp] theorem State.countDraw_plane (k' : Fin 4) (a' : Nat) :
    (s.countDraw).plane k' a' = s.plane k' a' := rfl
@[simp] theorem State.countDraw_pixel (y x : Nat) :
    (s.countDraw).pixel y x = s.pixel y x := rfl
@[simp] theorem State.countDraw_status :
    (s.countDraw).status = s.status := rfl
@[simp] theorem State.countDraw_mapMask :
    (s.countDraw).mapMask = s.mapMask := rfl
@[simp] theorem State.countDraw_knows (bank' : Bank) (id' : Byte) :
    (s.countDraw).knows bank' id' = s.knows bank' id' := rfl
@[simp] theorem State.countDraw_inBounds (a' : Nat) :
    (s.countDraw).inBounds a' = s.inBounds a' := rfl
@[simp] theorem State.countDraw_vr :
    (s.countDraw).vr = s.vr := rfl
@[simp] theorem State.countDraw_de :
    (s.countDraw).de = s.de := rfl
@[simp] theorem State.countDraw_running :
    (s.countDraw).running = s.running := rfl

/-- A recorded fault halts the machine (R230). -/
@[simp] theorem State.raise_running (ag : Agent) (f : FaultRecord) : (s.raise ag f).running = false := rfl

theorem State.running_iff : s.running = true ↔ s.fault = none ∧ s.renderer.phase ≠ .terminated := by
  simp [State.running]

end Sys2Proof.Machine
end

