-- ==== Sys2Proof/Laws/Ops.lean ====
section
/-! SUPPORT. The laws of the shared operations: storage (a read after a write, and the canonical form kept), register cells,
plane bytes, pixels, signal updates, orders, and performing a list of events. -/

namespace Sys2Proof.Machine

/-! ## Storage -/

section Cells

variable {α : Type} (d : α)

theorem cellsGet_insert (a b : Nat) (v : α) (m : List (Nat × α)) :
    cellsGet d (cellsInsert a v m) b = if b = a then v else cellsGet d m b := by
  induction m with
  | nil => simp [cellsInsert, cellsGet]
  | cons c t ih =>
    obtain ⟨k, w⟩ := c
    simp only [cellsInsert]
    split_ifs with h1 h2 h3 <;> simp only [cellsGet, ih] <;> split_ifs <;> first | rfl | omega

theorem cellsGet_filter (a b : Nat) (m : List (Nat × α)) :
    cellsGet d (m.filter (fun c => decide (c.1 ≠ a))) b = if b = a then d else cellsGet d m b := by
  induction m with
  | nil => simp [cellsGet]
  | cons c t ih =>
    obtain ⟨k, w⟩ := c
    by_cases hk : k = a
    · subst hk
      rw [List.filter_cons_of_neg (by simp), ih]
      by_cases hb : b = k <;> simp [cellsGet, hb]
    · rw [List.filter_cons_of_pos (by simpa using hk)]
      simp only [cellsGet, ih]
      split_ifs <;> first | rfl | omega

theorem mem_cellsInsert {a : Nat} {v : α} {m : List (Nat × α)} {c : Nat × α} (h : c ∈ cellsInsert a v m) :
    c = (a, v) ∨ c ∈ m := by
  induction m with
  | nil => simpa [cellsInsert] using h
  | cons e t ih =>
    obtain ⟨k, w⟩ := e
    simp only [cellsInsert] at h
    split_ifs at h
    · simpa using h
    · rcases List.mem_cons.1 h with h | h <;> simp [h]
    · rcases List.mem_cons.1 h with h | h
      · simp [h]
      · rcases ih h with h | h <;> simp [h]

variable [DecidableEq α]

/-- A read after a write: the value written at its key, the old value elsewhere. -/
theorem cellsGet_put (a b : Nat) (v : α) (m : List (Nat × α)) :
    cellsGet d (cellsPut d a v m) b = if b = a then v else cellsGet d m b := by
  unfold cellsPut
  split_ifs with h
  · subst h; rw [cellsGet_filter]; simp [*]
  · rw [cellsGet_filter]; simp [*]
  · rw [cellsGet_insert]; simp [*]
  · rw [cellsGet_insert]; simp [*]

theorem cellsWf_cons (k : Nat) (w : α) (t : List (Nat × α)) :
    cellsWf d ((k, w) :: t) = true ↔ w ≠ d ∧ (∀ c ∈ t, k < c.1) ∧ cellsWf d t = true := by
  simp [cellsWf, and_assoc]

/-- What is listed after a write was listed before, or is the entry written. -/
theorem mem_cellsPut {a : Nat} {v : α} {m : List (Nat × α)} {c : Nat × α} (h : c ∈ cellsPut d a v m) :
    c = (a, v) ∨ c ∈ m := by
  unfold cellsPut at h
  split_ifs at h
  · exact .inr (List.mem_of_mem_filter h)
  · exact mem_cellsInsert h

theorem cellsWf_filter (p : Nat × α → Bool) {m : List (Nat × α)} (h : cellsWf d m = true) :
    cellsWf d (m.filter p) = true := by
  induction m with
  | nil => rfl
  | cons c t ih =>
    obtain ⟨k, w⟩ := c
    rw [cellsWf_cons] at h
    by_cases hp : p (k, w) = true
    · rw [List.filter_cons_of_pos hp, cellsWf_cons]
      exact ⟨h.1, fun c hc => h.2.1 c (List.mem_of_mem_filter hc), ih h.2.2⟩
    · rw [List.filter_cons_of_neg hp]; exact ih h.2.2

theorem cellsWf_insert {a : Nat} {v : α} (hv : v ≠ d) {m : List (Nat × α)} (h : cellsWf d m = true) :
    cellsWf d (cellsInsert a v m) = true := by
  induction m with
  | nil => simp [cellsInsert, cellsWf, hv]
  | cons c t ih =>
    obtain ⟨k, w⟩ := c
    have h' := (cellsWf_cons d k w t).1 h
    simp only [cellsInsert]
    split_ifs with h1 h2
    · refine (cellsWf_cons d _ _ _).2 ⟨hv, fun c hc => ?_, h⟩
      rcases List.mem_cons.1 hc with rfl | hc
      · exact h1
      · exact h1.trans (h'.2.1 c hc)
    · subst h2; exact (cellsWf_cons d _ _ _).2 ⟨hv, h'.2⟩
    · refine (cellsWf_cons d _ _ _).2 ⟨h'.1, fun c hc => ?_, ih h'.2.2⟩
      rcases mem_cellsInsert hc with rfl | hc
      · show k < a; omega
      · exact h'.2.1 c hc

/-- A write keeps the canonical form. -/
theorem cellsWf_put (a : Nat) (v : α) {m : List (Nat × α)} (h : cellsWf d m = true) :
    cellsWf d (cellsPut d a v m) = true := by
  unfold cellsPut
  split_ifs with hv
  · exact cellsWf_filter d _ h
  · exact cellsWf_insert d hv h

end Cells

theorem Memory.wf_put (a : Nat) (v : Byte) {m : Memory} (h : Memory.wf m = true) :
    Memory.wf (cellsPut unlistedByte a v m) = true := cellsWf_put _ a v h

theorem Pixels.wf_putPixel (y x : Nat) (c : RGB) {m : Pixels} (h : Pixels.wf m = true) :
    Pixels.wf (putPixel y x c m) = true := by
  unfold putPixel
  split_ifs
  · exact cellsWf_put _ _ c h
  · exact h

theorem Pixels.wf_paintColumn (c : Config) (y col : Nat) (q : Latch) {m : Pixels} (h : Pixels.wf m = true) :
    Pixels.wf (paintColumn c y col q m) = true := by
  simp only [paintColumn, lanes, List.foldl]
  iterate 8 apply Pixels.wf_putPixel
  exact h

/-! ## Keys -/

theorem regKey_inj {bank bank' : Bank} {id id' : Byte} : regKey bank id = regKey bank' id' ↔ bank = bank' ∧ id = id' := by
  have h := id.isLt
  have h' := id'.isLt
  rw [← BitVec.toNat_inj]
  cases bank <;> cases bank' <;> simp [regKey, Bank.index] <;> omega

theorem planeKey_inj {k k' : Fin 4} {a a' : Nat} : planeKey k a = planeKey k' a' ↔ k = k' ∧ a = a' := by
  rw [Fin.ext_iff]; unfold planeKey; omega

theorem pixelKey_inj {y y' x x' : Nat} (h : x < displayW) (h' : x' < displayW) :
    pixelKey y x = pixelKey y' x' ↔ y = y' ∧ x = x' := by
  unfold pixelKey displayW at *; omega

/-! ## Reads after writes -/

variable (s : State)

theorem State.reg_setCell (bank bank' : Bank) (id id' v : Byte) :
    (s.setCell bank id v).reg bank' id' = if bank' = bank ∧ id' = id then v else s.reg bank' id' := by
  simp [State.reg, cellsGet_put, regKey_inj]

theorem State.plane_setPlane (k k' : Fin 4) (a a' : Nat) (v : Byte) :
    (s.setPlane k a v).plane k' a' = if k' = k ∧ a' = a then v else s.plane k' a' := by
  simp [State.plane, cellsGet_put, planeKey_inj]

/-- What a signal update does to the cells: the status byte's signal, nothing else (R69). -/
theorem State.reg_updateSignal (sig : Signal) (on : Bool) (bank : Bank) (id : Byte) :
    (s.updateSignal sig on).reg bank id =
      if bank = .gen ∧ id = s.cfg.idStatus then signalByte s.cfg sig on s.status else s.reg bank id := by
  simp [State.updateSignal, State.reg_setCell]

/-- A signal update is the write of one cell and one event. -/
theorem State.updateSignal_eq (sig : Signal) (on : Bool) :
    s.updateSignal sig on =
      { s with
        regs := cellsPut unlistedByte (regKey .gen s.cfg.idStatus) (signalByte s.cfg sig on s.status) s.regs
        history := (.renderer, .statusUpdate sig on) :: s.history } := rfl

/-- The bounds check (R62). -/
theorem State.inBounds_iff (a : Nat) : s.inBounds a = true ↔ a < s.cfg.planeBytes := by simp [State.inBounds]

/-- A plane read either logs the byte and goes on with it, or is a bounds fault. -/
theorem State.memRead_eq (ag : Agent) (k : Fin 4) (a : Nat) (use : Byte → State → State) :
    s.memRead ag k a use =
      if a < s.cfg.planeBytes then use (s.plane k a) (s.log ag (.planeRead k a (s.plane k a)))
      else s.raise ag (.boundsFault a) := by
  simp [State.memRead, State.inBounds]

/-- A plane write either writes and logs the byte, or is a bounds fault. -/
theorem State.memWrite_eq (ag : Agent) (k : Fin 4) (a : Nat) (v : Byte) :
    s.memWrite ag k a v =
      if a < s.cfg.planeBytes then (s.setPlane k a v).log ag (.planeWrite k a v)
      else s.raise ag (.boundsFault a) := by
  simp [State.memWrite, State.inBounds]

/-! ## Orders -/

/-- An order of events has the same events. -/
theorem permute_perm {α : Type} (n : Nat) (l : List α) : (permute n l).Perm l := by
  induction l generalizing n with
  | nil => simp [permute]
  | cons x xs ih =>
    have h := ih (n / (xs.length + 1))
    refine (List.perm_insertIdx x _ ?_).trans (h.cons x)
    rw [h.length_eq]
    exact Nat.le_of_lt_succ (Nat.mod_lt _ (by omega))

@[simp] theorem permute_length {α : Type} (n : Nat) (l : List α) : (permute n l).length = l.length :=
  (permute_perm n l).length_eq

/-! ## Performing events -/

section RunEvents

variable {α : Type} (can : α → State → Bool) (perform : α → State → State) (keep : List α → State → State)

@[simp] theorem runEvents_nil (g : Option Nat) : runEvents can perform keep [] g s = keep [] s := rfl

/-- A machine that has halted performs nothing, and drops what was pending. -/
theorem runEvents_halted (op : α) (rest : List α) (g : Option Nat) (h : s.running = false) :
    runEvents can perform keep (op :: rest) g s = keep [] s := by simp [runEvents, h]

/-- One event performed. -/
theorem runEvents_cons (op : α) (rest : List α) (g : Option Nat) (h : s.running = true) (hg : g ≠ some 0)
    (hc : can op s = true) :
    runEvents can perform keep (op :: rest) g s =
      runEvents can perform keep rest (g.map (· - 1)) (perform op s) := by simp [runEvents, h, hg, hc]

/-- An event that must wait is kept. -/
theorem runEvents_wait (op : α) (rest : List α) (g : Option Nat) (h : s.running = true) (hc : can op s = false) :
    runEvents can perform keep (op :: rest) g s = keep (op :: rest) s := by
  simp [runEvents, h, hc]

/-- What every event and the keeping of pending events preserve, performing events preserves. -/
theorem runEvents_induct (P : State → Prop) (hp : ∀ op s, s.running = true → P s → P (perform op s))
    (hk : ∀ ops s, P s → P (keep ops s)) (ops : List α) (g : Option Nat) (s : State) (h : P s) :
    P (runEvents can perform keep ops g s) := by
  induction ops generalizing g s with
  | nil => exact hk _ _ h
  | cons op rest ih =>
    unfold runEvents
    split_ifs with hr hg hc
    · exact hk _ _ h
    · exact ih _ _ (hp op s hr h)
    · exact hk _ _ h
    · exact hk _ _ h

end RunEvents

end Sys2Proof.Machine
end

