-- ==== Sys2Proof/Laws/Step.lean ====
section
/-! SUPPORT. What a step can do, said once: every state a step or an instruction reaches comes about by events of clients and
of the renderer, and by changes of the schedule, the draws and the clients' own state. An invariant that these keep, every
instruction and every step keeps. -/

namespace Sys2Proof.Machine

/-- A property that does not read the issuer, the grant, the schedule, the draws or the clients' private state, but may read
how many clients there are. -/
def IgnoresBookkeeping (P : State → Prop) : Prop :=
  ∀ (s : State) (issuer : Nat) (grant : Option Nat) (sched : List Turn) (draws : Draws) (clients : List Client),
    clients.length = s.clients.length → P s → P { s with issuer := issuer, grant := grant, sched := sched, draws := draws, clients := clients }

/-- A property that every event of every agent keeps. -/
structure KeptByEvents (P : State → Prop) : Prop where
  bookkeeping : IgnoresBookkeeping P
  client : ∀ (k : Nat) (op : ClientOp) (s : State), s.running = true → P s → P (performClient k op s)
  renderer : ∀ (op : RendererOp) (s : State), s.running = true → P s → P (performRenderer op s)
  pending : ∀ (ops : List RendererOp) (s : State), P s → P (keepRenderer ops s)

variable {P : State → Prop}

/-! ## Draws change only the draws -/

theorem drawOrder_draws (s : State) : s.drawOrder.2 = { s with draws := s.drawOrder.2.draws } := by
  unfold State.drawOrder; split <;> rfl

theorem planWriteByte_draws (a : Nat) (v : Byte) (s : State) :
    (planWriteByte a v s).2 = { s with draws := (planWriteByte a v s).2.draws } := by
  unfold planWriteByte
  split_ifs
  · exact drawOrder_draws s
  · show s.drawOrder.2.drawOrder.2 = { s with draws := s.drawOrder.2.drawOrder.2.draws }
    rw [drawOrder_draws s.drawOrder.2, drawOrder_draws s]
  · rfl

theorem planBytes_draws (a : Nat) (vs : List Byte) (s : State) :
    (planBytes a vs s).2 = { s with draws := (planBytes a vs s).2.draws } := by
  induction vs generalizing a s with
  | nil => rfl
  | cons v vs ih =>
    show (planBytes (a + 1) vs (planWriteByte a v s).2).2 =
      { s with draws := (planBytes (a + 1) vs (planWriteByte a v s).2).2.draws }
    rw [ih, planWriteByte_draws]

theorem planChunk_draws (a : Nat) (vs : List Byte) (s : State) :
    (planChunk a vs s).2 = { s with draws := (planChunk a vs s).2.draws } := by
  unfold planChunk
  split_ifs
  · rfl
  · exact planBytes_draws a vs s
  · rfl

theorem planFrameStart_draws (s : State) :
    (planFrameStart s).2 = { s with draws := (planFrameStart s).2.draws } := drawOrder_draws s

theorem planColumn_draws (s : State) : (planColumn s).2 = { s with draws := (planColumn s).2.draws } := by
  unfold planColumn
  split_ifs
  · exact drawOrder_draws s
  · rfl

/-! ## Instructions and steps -/

namespace KeptByEvents

variable (h : KeptByEvents P)
include h

theorem draws (s : State) (d : Draws) (hs : P s) : P { s with draws := d } :=
  h.bookkeeping s s.issuer s.grant s.sched d s.clients rfl hs

theorem clients (s : State) (k : Nat) (f : Client → Client) (hs : P s) : P (s.modifyClient k f) :=
  h.bookkeeping s s.issuer s.grant s.sched s.draws _ (List.length_modify f s.clients k) hs

theorem runClient (k : Nat) (ops : List ClientOp) (g : Option Nat) (s : State) (hs : P s) : P (runClient k ops g s) :=
  runEvents_induct _ _ _ P (fun op s => h.client k op s) (fun _ s hs => h.clients s k _ hs) ops g s hs

theorem runRenderer (ops : List RendererOp) (g : Option Nat) (s : State) (hs : P s) : P (runRenderer ops g s) :=
  runEvents_induct _ _ _ P h.renderer h.pending ops g s hs

theorem issueCommand (ops : List ClientOp) (d : Draws) (s t : State) (hs : P s)
    (ht : issueCommand (ops, { s with draws := d }) s = .next t) : P t := by
  unfold Machine.issueCommand at ht
  split_ifs at ht
  cases ht
  exact h.runClient _ _ _ _ (h.draws s d hs)

theorem issueStep (ops : List RendererOp) (d : Draws) (s t : State) (hs : P s)
    (ht : issueStep (ops, { s with draws := d }) s = .next t) : P t := by
  unfold Machine.issueStep at ht
  split_ifs at ht
  cases ht
  exact h.runRenderer _ _ _ (h.draws s d hs)

theorem issueCommand_plan (plan : List ClientOp × State) (s t : State) (hs : P s)
    (hp : plan.2 = { s with draws := plan.2.draws }) (ht : Machine.issueCommand plan s = .next t) : P t := by
  obtain ⟨ops, u⟩ := plan
  simp only at hp
  rw [hp] at ht
  exact h.issueCommand ops u.draws s t hs ht

theorem issueStep_plan (plan : List RendererOp × State) (s t : State) (hs : P s)
    (hp : plan.2 = { s with draws := plan.2.draws }) (ht : Machine.issueStep plan s = .next t) : P t := by
  obtain ⟨ops, u⟩ := plan
  simp only at hp
  rw [hp] at ht
  exact h.issueStep ops u.draws s t hs ht

/-- Every instruction keeps what every event keeps. -/
theorem exec (i : Instr) (s t : State) (hs : P s) (ht : exec i s = .next t) : P t := by
  cases i with
  | getReg bank id => exact h.issueCommand_plan ([.getReg bank id, .respond], s) s t hs rfl ht
  | setReg bank id v => exact h.issueCommand_plan ([.setReg bank id v], s) s t hs rfl ht
  | readPlane k a => exact h.issueCommand_plan ([.readPlane k a.toNat, .respond], s) s t hs rfl ht
  | writeByte a v => exact h.issueCommand_plan _ s t hs (planWriteByte_draws _ _ s) ht
  | writeChunk a bs => exact h.issueCommand_plan _ s t hs (planChunk_draws _ _ s) ht
  | startRendering mode =>
    exact h.issueCommand_plan ([.checkPhase, .checkMode mode, .readPitch, .start mode], s) s t hs rfl ht
  | writeFull rest => exact h.issueCommand_plan ([.raise (.refused "WRITE_FULL")], s) s t hs rfl ht
  | frameStart => exact h.issueStep_plan _ s t hs (planFrameStart_draws s) ht
  | lineBegin => exact h.issueStep_plan ([.signal .de false, .enterColumns], s) s t hs rfl ht
  | column => exact h.issueStep_plan _ s t hs (planColumn_draws s) ht
  | lineEnd => exact h.issueStep_plan ([.advanceRow, .signal .de true, .nextLine], s) s t hs rfl ht
  | frameEnd => exact h.issueStep_plan ([.signal .vr true, .present, .awaitHost, .enter .poll], s) s t hs rfl ht
  | poll => exact h.issueStep_plan ([.poll], s) s t hs rfl ht
  | pace => exact h.issueStep_plan ([.pace, .awaitHost, .enter .frameStart], s) s t hs rfl ht

end KeptByEvents

/-! ## The parts of a step -/

/-- Hearing the host changes only the draws, and nothing where no hold waits. -/
theorem hearHost_draws (s : State) :
    s.hearHost = { s with draws := s.hearHost.draws } ∧ (s.answered = true → s.hearHost = s) := by
  unfold State.hearHost
  split
  · exact ⟨rfl, fun _ => rfl⟩
  · exact ⟨by split <;> rfl, fun h => absurd h ‹_›⟩

/-- What a free choice gives: a turn of an agent with an enabled step, the draws alone having moved on; a wait where the
renderer is held without an answer; or nothing. -/
theorem chooseTurn_cases (s : State) :
    (∃ (ag : Agent) (g : Option Nat) (d : Draws), s.chooseTurn = .turn ⟨ag, g⟩ { s with draws := d }
        ∧ { s with draws := d }.agentEnabled ag = true)
      ∨ (s.chooseTurn = .wait s ∧ s.answered = false ∧ s.enabledAgents = [])
      ∨ (s.chooseTurn = .stuck ∧ s.answered = true ∧ s.enabledAgents = []) := by
  have mem : ∀ ag ∈ s.enabledAgents, s.agentEnabled ag = true := fun ag hag => (List.mem_filter.1 hag).2
  have pick : ∀ ag more, s.enabledAgents = ag :: more → ∃ (ag' : Agent) (g : Option Nat) (d : Draws),
      s.anyTurn ag more = .turn ⟨ag', g⟩ { s with draws := d } ∧ { s with draws := d }.agentEnabled ag' = true := by
    intro ag more he
    have hl : Config.freePick s.draws.count % (more.length + 1) < (ag :: more).length := by
      simpa using Nat.mod_lt _ (Nat.succ_pos more.length)
    have hm := mem ((ag :: more).getD _ ag) (by rw [he, List.getD_eq_getElem _ _ hl]; exact List.getElem_mem hl)
    refine ⟨_, _, _, rfl, ?_⟩
    revert hm
    generalize (ag :: more).getD _ ag = a
    cases a <;> exact id
  unfold State.chooseTurn
  split
  · rename_i he
    cases ha : s.answered
    · exact .inr (.inl ⟨by simp, rfl, he⟩)
    · exact .inr (.inr ⟨by simp, rfl, he⟩)
  · rename_i ag he
    cases ha : s.answered
    · exact .inl (by simpa using pick ag [] he)
    · exact .inl ⟨ag, none, s.draws, by simp, mem ag (by simp [he])⟩
  · rename_i ag more _ he
    exact .inl (pick ag more he)

/-- A step that answers a next state, in a running machine, is a turn of an agent with an enabled step, the schedule and
draws alone having moved on before it; or a wait for the host, which moves those alone. -/
theorem step_next {s t : State} (ht : step s = .next t) :
    s.running = true ∧ ∃ (ts : List Turn) (d : Draws),
      (s.answered = false ∧ t = { s with sched := ts, draws := d }) ∨
        ∃ (ag : Agent) (g : Option Nat), { s with sched := ts, draws := d }.agentEnabled ag = true ∧
          runFetched (fetch ag { s with sched := ts, draws := d, grant := g }) = .next t := by
  unfold step at ht
  split_ifs at ht with hf hp
  refine ⟨by simp_all [State.running_iff], ?_⟩
  have free : ∀ ts : List Turn, s.nextTurn = { s with sched := ts }.freeTurn → ∃ d : Draws,
      (s.answered = false ∧ t = { s with sched := ts, draws := d }) ∨
        ∃ (ag : Agent) (g : Option Nat), { s with sched := ts, draws := d }.agentEnabled ag = true ∧
          runFetched (fetch ag { s with sched := ts, draws := d, grant := g }) = .next t := by
    intro ts hn
    rw [hn] at ht
    unfold State.freeTurn at ht
    obtain ⟨hd, ha⟩ := hearHost_draws { s with sched := ts }
    generalize hu : { s with sched := ts }.hearHost = u at hd ha ht
    rcases chooseTurn_cases u with ⟨ag, g, d, h, he⟩ | ⟨h, hw, -⟩ | ⟨h, -, -⟩
    · rw [h, hd] at ht
      rw [hd] at he
      exact ⟨d, .inr ⟨ag, g, he, ht⟩⟩
    · rw [h] at ht
      obtain rfl : u = t := by simpa using ht
      refine ⟨_, .inl ⟨?_, hd⟩⟩
      by_contra hs
      have hs' : { s with sched := ts }.answered = true := by
        show s.answered = true
        simpa using hs
      rw [ha hs', hs'] at hw
      cases hw
    · rw [h] at ht; cases ht
  cases hs : s.sched with
  | nil => exact ⟨[], free [] (by simp only [State.nextTurn, hs]; rw [← hs])⟩
  | cons tn ts =>
    by_cases he : s.agentEnabled tn.agent = true
    · simp only [State.nextTurn, hs, he, if_true] at ht
      refine ⟨ts, s.draws, .inr ⟨tn.agent, tn.grant, ?_, ht⟩⟩
      revert he
      cases tn.agent <;> exact id
    · exact ⟨ts, free ts (by simp only [State.nextTurn, hs, he, if_false, Bool.false_eq_true])⟩

/-- Every step keeps what every event keeps. -/
theorem KeptByEvents.step (h : KeptByEvents P) {s t : State} (hs : P s) (ht : step s = .next t) : P t := by
  obtain ⟨hr, ts, d, ⟨-, rfl⟩ | ⟨ag, g, -, ht⟩⟩ := step_next ht
  · exact h.bookkeeping s s.issuer s.grant ts d s.clients rfl hs
  have hu : P { s with sched := ts, draws := d, grant := g } := h.bookkeeping s s.issuer g ts d s.clients rfl hs
  generalize hueq : { s with sched := ts, draws := d, grant := g } = u at ht hu
  have hur : u.running = true := by subst hueq; exact hr
  unfold fetch at ht
  split at ht
  · unfold fetchClient at ht
    split at ht
    · cases ht; exact hu
    · split_ifs at ht
      · split at ht
        · exact h.exec _ _ _ (h.bookkeeping u _ u.grant u.sched u.draws _ (List.length_modify _ _ _) hu) ht
        · cases ht; exact h.client _ (.raise _) u hur hu
        · cases ht; exact hu
        · cases ht; exact hu
      · cases ht; exact h.runClient _ _ _ _ hu
  · unfold fetchRenderer at ht
    split_ifs at ht
    · split at ht
      · exact h.exec _ _ _ hu ht
      · cases ht; exact hu
    · cases ht; exact h.runRenderer _ _ _ hu

end Sys2Proof.Machine
end

