-- ==== Sys2Proof/Laws/Events.lean ====
section
/-! SUPPORT. What one event can do, said once: each event of a client or of the renderer is one of a few record updates. -/

namespace Sys2Proof.Machine

/-- Everything an event of client `k` can do to a state `s`. -/
inductive ClientEffect (k : Nat) (s : State) : State → Prop where
  /-- Nothing but a change of clients (a check passed, or a response). -/
  | clients (cs : List Client) (hl : cs.length = s.clients.length) : ClientEffect k s { s with clients := cs }
  /-- A fault, and no other change. -/
  | fault (f : FaultRecord) : ClientEffect k s (s.raise (.client k) f)
  /-- A register read, with changes of clients and draws only. -/
  | regRead (bank : Bank) (id v : Byte) (cs : List Client) (d : Draws) (hl : cs.length = s.clients.length)
      (hv : s.knows bank id = true → v = s.reg bank id) :
      ClientEffect k s
        { s with history := (.client k, .regRead bank id v) :: s.history, clients := cs, draws := d }
  /-- A register read and a fault. -/
  | readFault (bank : Bank) (id : Byte) (f : FaultRecord) :
      ClientEffect k s ((s.readReg (.client k) bank id).raise (.client k) f)
  /-- A register write. -/
  | regWrite (bank : Bank) (id v : Byte) (h : ¬(bank = .gen ∧ id = s.cfg.idStatus)) (hk : s.knows bank id = true) :
      ClientEffect k s ((s.setCell bank id v).log (.client k) (.regWrite bank id v))
  /-- A register write of an unknown code. -/
  | unknownWrite (bank : Bank) (id v : Byte) (hk : s.knows bank id = false) :
      ClientEffect k s (s.log (.client k) (.regWrite bank id v))
  /-- A plane read, with a change of clients only. -/
  | planeRead (p : Fin 4) (a : Nat) (cs : List Client) (hl : cs.length = s.clients.length) :
      ClientEffect k s
        { s with history := (.client k, .planeRead p a (s.plane p a)) :: s.history, clients := cs }
  /-- A plane write. -/
  | planeWrite (p : Fin 4) (a : Nat) (v : Byte) (he : planeEnabled s.mapMask p = true) (ha : a < s.cfg.planeBytes) :
      ClientEffect k s
        (((s.readReg (.client k) .seq s.cfg.idMapMask).setPlane p a v).log (.client k) (.planeWrite p a v))
  /-- The start of the frame loop. -/
  | start (mode : Byte) (cs : List Client) (hl : cs.length = s.clients.length) (hp : s.renderer.phase = .idle) :
      ClientEffect k s { s with renderer := { s.renderer with mode := mode, phase := .frameStart }, clients := cs }

theorem drawByte_draws (s : State) : s.drawByte.2 = { s with draws := s.drawByte.2.draws } := by
  unfold State.drawByte; split <;> rfl

/-- Every event of a client has one of these effects. -/
theorem performClient_effect (k : Nat) (op : ClientOp) (s : State) : ClientEffect k s (performClient k op s) := by
  cases op with
  | getReg bank id =>
    simp only [performClient, doGetReg]
    split_ifs with h
    · exact .regRead bank id (s.reg bank id) _ s.draws (List.length_modify _ _ _) fun _ => rfl
    · rw [drawByte_draws]
      exact .regRead bank id _ _ _ (List.length_modify _ _ _) fun h' => absurd h' h
  | setReg bank id v =>
    simp only [performClient, doSetReg]
    split_ifs with h hk
    · exact .fault _
    · exact .regWrite bank id v h hk
    · exact .unknownWrite bank id v (by simpa using hk)
  | readPlane p a =>
    simp only [performClient, doReadPlane, State.memRead_eq]
    split_ifs
    · exact .planeRead p a _ (List.length_modify _ _ _)
    · exact .fault _
  | writePlane p a v =>
    simp only [performClient, doWritePlane, State.memWrite_eq]
    split_ifs with h ha
    · exact .planeWrite p a v h ha
    · exact .readFault _ _ _
    · exact .regRead .seq s.cfg.idMapMask _ s.clients s.draws rfl fun _ => rfl
  | readMode slot bank id => exact .regRead bank id _ _ s.draws (List.length_modify _ _ _) fun _ => rfl
  | checkPlanar a =>
    simp only [performClient, doCheckPlanar]
    split_ifs
    · exact .clients s.clients rfl
    · exact .fault _
  | respond => exact .clients _ (List.length_modify _ _ _)
  | checkPhase =>
    simp only [performClient, doCheckPhase]
    split_ifs
    · exact .fault _
    · exact .clients s.clients rfl
  | checkMode mode =>
    simp only [performClient, doCheckMode]
    split_ifs
    · exact .fault _
    · exact .clients s.clients rfl
  | readPitch => exact .regRead .crt s.cfg.idCrtOffset _ _ s.draws (List.length_modify _ _ _) fun _ => rfl
  | start mode =>
    simp only [performClient, doStart]
    split_ifs with _ hp
    · exact .fault _
    · exact .fault _
    · exact .start mode _ (List.length_modify _ _ _) (by simpa using hp)
  | raise f => exact .fault f

/-- Everything an event of the renderer can do to a state `s`, whatever it does to the renderer's own registers. -/
inductive RendererEffect (s : State) : State → Prop where
  /-- A change of the renderer's registers and the draws only. -/
  | own (r : Renderer) (d : Draws) : r.t0 = s.renderer.t0 → RendererEffect s { s with renderer := r, draws := d }
  /-- A fault, with a change of the draws only. -/
  | fault (f : FaultRecord) (d : Draws) : RendererEffect s ({ s with draws := d }.raise .renderer f)
  /-- A time reading. -/
  | time (n : Seconds) (d : Draws) (hn : s.now ≤ n) :
      RendererEffect s { s with now := n, draws := d, renderer := { s.renderer with t0 := n } }
  /-- A signal update. -/
  | signal (sig : Signal) (on : Bool) : RendererEffect s (s.updateSignal sig on)
  /-- A register read. -/
  | regRead (bank : Bank) (id : Byte) (r : Renderer) : r.t0 = s.renderer.t0 →
      RendererEffect s
        { s with history := (.renderer, .regRead bank id (s.reg bank id)) :: s.history, renderer := r }
  /-- A plane read. -/
  | planeRead (p : Fin 4) (a : Nat) (r : Renderer) : r.t0 = s.renderer.t0 →
      RendererEffect s { s with history := (.renderer, .planeRead p a (s.plane p a)) :: s.history, renderer := r }
  /-- Eight pixels drawn. -/
  | draw (y col : Nat) (q : Latch) (r : Renderer) : r.t0 = s.renderer.t0 →
      RendererEffect s { s with fb := paintColumn s.cfg y col q s.fb, renderer := r }
  /-- A frame presented. -/
  | present (r : Renderer) : r.t0 = s.renderer.t0 →
      RendererEffect s { s with history := (.renderer, .present s.fb) :: s.history, renderer := r }
  /-- A sleep. -/
  | sleep (n : Seconds) (d : Draws) (r : Renderer) (hn : s.now ≤ n) (hb : n - s.renderer.t0 < frameBudget) :
      r.t0 = s.renderer.t0 →
      RendererEffect s
        { s with
          now := n, draws := d, renderer := r
          history := (.renderer, .sleep (frameBudget - (n - s.renderer.t0))) :: s.history }
  /-- An overrun. -/
  | overrun (n : Seconds) (d : Draws) (hn : s.now ≤ n) (hb : ¬(n - s.renderer.t0 < frameBudget)) :
      RendererEffect s
        { s with
          now := n, draws := d
          history := (.renderer, .overrun (n - s.renderer.t0 - frameBudget)) :: s.history }

theorem tickSeconds_nonneg (t : Nat × Nat) : 0 ≤ tickSeconds t := by
  unfold tickSeconds; positivity

/-- A reading is never below the one before (R191), and only the draws change with it. -/
theorem drawNow_spec (s : State) :
    s.now ≤ s.drawNow.1 ∧ s.drawNow.2 = { s with now := s.drawNow.1, draws := s.drawNow.2.draws }
      ∧ s.drawNow.2.draws.wakes = s.draws.wakes := by
  unfold State.drawNow
  split <;> exact ⟨le_add_of_nonneg_right (tickSeconds_nonneg _), rfl, rfl⟩

/-- The host's answer ends the hold, with a change of the draws only, or is the fault of a failed present. -/
theorem liftHold_answered {s : State} (h : s.answered = true) :
    (∃ d, s.liftHold = { s with renderer := { s.renderer with hold := none }, draws := d }) ∨
      ∃ d, s.liftHold = ({ s with draws := d }.raise .renderer .outputSurfaceFault) ∧ s.renderer.hold = some .present := by
  unfold State.liftHold
  split
  · rename_i hh
    exact .inl ⟨s.draws, by rw [← hh]⟩
  · rename_i hh
    rw [if_neg (by simp [State.answered, hh] at h; omega)]
    exact .inl ⟨_, rfl⟩
  · rename_i hh
    split
    · rename_i hp
      simp [State.answered, hh, hp] at h
    · exact .inl ⟨_, rfl⟩
    · exact .inr ⟨_, rfl, hh⟩

/-- Without an answer nothing changes. -/
theorem liftHold_unanswered {s : State} (h : s.answered = false) : s.liftHold = s := by
  unfold State.answered at h
  unfold State.liftHold
  split
  · rfl
  · rename_i hh
    simp only [hh, decide_eq_false_iff_not] at h
    rw [if_pos (by omega)]
  · rename_i hh
    simp only [hh, Bool.not_eq_false', List.isEmpty_iff] at h
    rw [h]

theorem drawTerminate_draws (s : State) : s.drawTerminate.2 = { s with draws := s.drawTerminate.2.draws } := by
  unfold State.drawTerminate; split <;> rfl

/-- Every event of the renderer has one of these effects. -/
theorem performRenderer_effect (op : RendererOp) (s : State) : RendererEffect s (performRenderer op s) := by
  cases op with
  | readTime =>
    have h := drawNow_spec s
    simp only [performRenderer, doReadTime]
    rw [h.2.1]
    exact .time _ _ h.1
  | signal sig on => cases sig <;> cases on <;> exact .signal _ _
  | latchReg slot bank id => exact .regRead bank id _ rfl
  | latchFrame =>
    simp only [performRenderer, doLatchFrame]
    split_ifs
    · exact .fault _ s.draws
    · exact .own _ s.draws rfl
  | enterColumns => exact .own _ s.draws rfl
  | latchPlane p a =>
    simp only [performRenderer, doLatchPlane, State.memRead_eq]
    split_ifs
    · exact .planeRead p a _ rfl
    · exact .fault _ s.draws
  | drawColumn => exact .draw _ _ _ _ rfl
  | advanceRow => exact .own _ s.draws rfl
  | nextLine => exact .own _ s.draws rfl
  | present => exact .present _ rfl
  | awaitHost =>
    show RendererEffect s s.liftHold
    cases ha : s.answered
    · rw [liftHold_unanswered ha]; exact .own s.renderer s.draws rfl
    · rcases liftHold_answered ha with ⟨d, h⟩ | ⟨d, h, -⟩ <;> rw [h]
      · exact .own _ d rfl
      · exact .fault _ d
  | enter p => exact .own _ s.draws rfl
  | poll =>
    show RendererEffect s (s.drawTerminate.2.enter _)
    rw [drawTerminate_draws]
    exact .own _ _ rfl
  | pace =>
    have h := drawNow_spec s
    simp only [performRenderer, doPace]
    split_ifs with hb
    · rw [h.2.1]; exact .sleep _ _ _ h.1 hb rfl
    · rw [h.2.1]; exact .overrun _ _ h.1 hb
  | raise f => exact .fault f s.draws

end Sys2Proof.Machine
end

