-- ==== Sys2Proof/Laws/Issue.lean ====
section
/-! SUPPORT. Performing a whole instruction: what a turn that covers it (`State.covers`) does, event by event, free of the
grant, and the equation of each shared way an instruction issues its events. -/

namespace Sys2Proof.Machine

section RunEvents

variable {α : Type} (can : α → State → Bool) (perform : α → State → State) (keep : List α → State → State) (s : State)

/-- A grant that covers the events is no limit. -/
theorem runEvents_covered (ops : List α) (g : Nat) (hg : ops.length ≤ g) :
    runEvents can perform keep ops (some g) s = runEvents can perform keep ops none s := by
  induction ops generalizing g s with
  | nil => rfl
  | cons op rest ih =>
    have h0 : g ≠ 0 := by intro h; simp [h] at hg
    have hl : rest.length ≤ g - 1 := by simp at hg; omega
    simp only [runEvents, Option.some.injEq, h0, if_false, Option.map_some, Option.map_none, reduceCtorEq, ih _ _ hl]

/-- Events that keep a property `Q` of running states, and need not wait, are performed in order. -/
theorem runEvents_append (Q : State → Prop) (before after : List α) (hrun : ∀ t, Q t → t.running = true)
    (hcan : ∀ op ∈ before, ∀ t, Q t → can op t = true ∧ Q (perform op t)) (hs : Q s) :
    runEvents can perform keep (before ++ after) none s =
        runEvents can perform keep after none (before.foldl (fun t op => perform op t) s)
      ∧ Q (before.foldl (fun t op => perform op t) s) := by
  induction before generalizing s with
  | nil => exact ⟨rfl, hs⟩
  | cons op rest ih =>
    have h := hcan op (by simp) s hs
    rw [List.cons_append, runEvents_cons _ _ _ _ _ _ _ (hrun s hs) (by simp) h.1]
    exact ih _ (fun op h => hcan op (by simp [h])) h.2

end RunEvents

/-- A turn that covers the instruction: the machine runs, and the events are performed without a limit. -/
theorem State.covers_iff (s : State) (n : Nat) :
    s.covers n = true ↔ s.running = true ∧ (s.grant = none ∨ ∃ g, s.grant = some g ∧ n ≤ g) := by
  unfold State.covers State.grants
  cases h : s.grant <;> simp

/-- A command whose events the turn covers: all of them are performed. -/
theorem issueCommand_covers (plan : List ClientOp × State) (s : State) (n : Nat) (h : s.covers n = true)
    (hn : plan.1.length ≤ n) : issueCommand plan s = .next (runClient s.issuer plan.1 none plan.2) := by
  obtain ⟨hr, hg⟩ := (State.covers_iff s n).1 h
  obtain ⟨hf, hp⟩ := (State.running_iff s).1 hr
  rw [issueCommand, hf, if_neg (by simp), if_neg hp]
  obtain hg | ⟨g, hg, hle⟩ := hg
  · rw [hg]
  · rw [hg, runClient, runEvents_covered _ _ _ _ _ _ (hn.trans hle), runClient]

/-- A renderer step whose events the turn covers: all of them are performed, up to one that must wait. -/
theorem issueStep_covers (plan : List RendererOp × State) (s : State) (n : Nat) (h : s.covers n = true)
    (hn : plan.1.length ≤ n) : issueStep plan s = .next (runRenderer plan.1 none plan.2) := by
  obtain ⟨hr, hg⟩ := (State.covers_iff s n).1 h
  obtain ⟨hf, hp⟩ := (State.running_iff s).1 hr
  rw [issueStep, hf, if_neg (by simp), if_neg hp]
  obtain hg | ⟨g, hg, hle⟩ := hg
  · rw [hg]
  · rw [hg, runRenderer, runEvents_covered _ _ _ _ _ _ (hn.trans hle), runRenderer]

/-- A command of one event. -/
theorem issueCommand_one (op : ClientOp) (s : State) (h : s.covers 1 = true) :
    issueCommand ([op], s) s = .next (keepClient s.issuer [] (performClient s.issuer op s)) := by
  rw [issueCommand_covers _ _ 1 h (by simp), runClient,
    runEvents_cons _ _ _ _ _ _ _ ((State.covers_iff s 1).1 h).1 (by simp) rfl, runEvents_nil]

/-- A renderer step of one event. -/
theorem issueStep_one (op : RendererOp) (s : State) (h : s.covers 1 = true) (hc : rendererCan op s = true) :
    issueStep ([op], s) s = .next (keepRenderer [] (performRenderer op s)) := by
  rw [issueStep_covers _ _ 1 h (by simp), runRenderer,
    runEvents_cons _ _ _ _ _ _ _ ((State.covers_iff s 1).1 h).1 (by simp) hc, runEvents_nil]

/-- In a client list, changing the entry that is there is setting it. -/
theorem modify_eq_set {cs : List Client} {k : Nat} {c : Client} (f : Client → Client) (h : cs[k]? = some c) :
    cs.modify k f = cs.set k (f c) := by
  rw [List.modify_eq_set_getElem?, h]; rfl

end Sys2Proof.Machine
end

