-- ==== Sys2Proof/Laws/PerInstr.lean ====
section
/-! SUPPORT. Per-instruction families: what each instruction's encoding looks like from outside, one lemma for each
constructor. -/

namespace Sys2Proof.Laws.EncodedShape

/-- The number that selects the instruction: a command's OP (R92), a renderer step's phase value (R104). -/
def selector : Instr → BitVec 4
  | .getReg _ _ => 0x1
  | .setReg _ _ _ => 0x2
  | .readPlane _ _ => 0x3
  | .writeByte _ _ => 0x4
  | .writeChunk _ _ => 0x5
  | .startRendering _ => 0x6
  | .writeFull _ => 0x7
  | .frameStart => 0x1
  | .lineBegin => 0x2
  | .column => 0x3
  | .lineEnd => 0x4
  | .frameEnd => 0x5
  | .poll => 0x6
  | .pace => 0x7

/-- How many command words the instruction takes: `2 + ceil(N/4)` for a chunk of `N` bytes (R98), none for a renderer
step, else one (R91). -/
def wordCount : Instr → Nat
  | .writeChunk _ bytes => 2 + (bytes.length + 3) / 4
  | .getReg _ _ | .setReg _ _ _ | .readPlane _ _ | .writeByte _ _ | .startRendering _ | .writeFull _ => 1
  | .frameStart | .lineBegin | .column | .lineEnd | .frameEnd | .poll | .pace => 0

/-- An instruction's encoding has its number of words, the first with its OP; a renderer step's is its phase value. -/
def Statement (i : Instr) : Prop :=
  match encode i with
  | .words ws => ws.length = wordCount i ∧ ∃ w rest, ws = w :: rest ∧ opField w = selector i
  | .phase c => wordCount i = 0 ∧ c = selector i

theorem opField_commandWord (op : BitVec 4) (sel : BitVec 2) (data : Byte) (addr : BitVec 16) :
    opField (commandWord op sel data addr) = op := by
  ext j hj
  have : j < 4 := hj
  simp only [opField, commandWord, BitVec.getElem_extractLsb', BitVec.getLsbD_append]
  rw [if_neg (by omega), if_neg (by omega), if_neg (by omega), if_neg (by omega)]
  rw [show 28 + j - 16 - 8 - 2 - 2 = j by omega]
  simp [hj]

theorem packBytes_length (bs : List Byte) : (packBytes bs).length = (bs.length + 3) / 4 := by
  induction bs using packBytes.induct with
  | case1 | case2 | case3 | case4 => simp [packBytes]
  | case5 b0 b1 b2 b3 bs ih => simp only [packBytes, List.length_cons, ih]; omega

theorem getReg (bank : Bank) (id : Byte) : Statement (.getReg bank id) :=
  ⟨rfl, _, _, rfl, opField_commandWord _ _ _ _⟩

theorem setReg (bank : Bank) (id value : Byte) : Statement (.setReg bank id value) :=
  ⟨rfl, _, _, rfl, opField_commandWord _ _ _ _⟩

theorem readPlane (plane : Fin 4) (offset : BitVec 16) : Statement (.readPlane plane offset) :=
  ⟨rfl, _, _, rfl, opField_commandWord _ _ _ _⟩

theorem writeByte (offset : BitVec 16) (value : Byte) : Statement (.writeByte offset value) :=
  ⟨rfl, _, _, rfl, opField_commandWord _ _ _ _⟩

theorem writeChunk (offset : BitVec 16) (bytes : List Byte) : Statement (.writeChunk offset bytes) := by
  refine ⟨?_, _, _, rfl, opField_commandWord _ _ _ _⟩
  simp only [List.length_cons, packBytes_length, wordCount]; omega

theorem startRendering (mode : Byte) : Statement (.startRendering mode) :=
  ⟨rfl, _, _, rfl, opField_commandWord _ _ _ _⟩

theorem writeFull (rest : BitVec 28) : Statement (.writeFull rest) := by
  refine ⟨rfl, _, _, rfl, ?_⟩
  ext j hj
  simp only [opField, BitVec.getElem_extractLsb', BitVec.getLsbD_append]
  rw [if_neg (by omega), show 28 + j - 28 = j by omega]
  simp [selector, hj]

theorem frameStart : Statement .frameStart := ⟨rfl, rfl⟩

theorem lineBegin : Statement .lineBegin := ⟨rfl, rfl⟩

theorem column : Statement .column := ⟨rfl, rfl⟩

theorem lineEnd : Statement .lineEnd := ⟨rfl, rfl⟩

theorem frameEnd : Statement .frameEnd := ⟨rfl, rfl⟩

theorem poll : Statement .poll := ⟨rfl, rfl⟩

theorem pace : Statement .pace := ⟨rfl, rfl⟩

end Sys2Proof.Laws.EncodedShape
end

