-- ==== Sys2Proof/Tests/Slice0.lean ====
section
/-! SUPPORT. Small tests of the model: ill-formed terms, words written out bit by bit from 30_encoding.md, the vectors of
95_test_vectors.md, and for every statement of Certificates/Slice0/Obligations.lean a witness that meets its hypotheses
together. -/

namespace Sys2Proof.Tests

open Sys2Proof Sys2Proof.Machine

/-! ## Helpers -/

/-- A client with this stream, next at turn in a machine of the default parameters, register cells as listed, every draw
that a command needs already answered. -/
def oneClient (regs : Memory) (ws : List Word) : State :=
  { State.resetWith Config.default ws [] with
    regs := regs, sched := [⟨.client 0, none⟩]
    draws := { Draws.fresh with orders := [0, 0, 0, 0, 0, 0, 0, 0, 0], bytes := [0x3C, 0xC3] } }

/-- Map-Mask `m` alone. -/
def mask (m : Byte) : Memory := [(regKey .seq 0x02, m)]

/-- The renderer at a phase, next at turn, with one client, whose stream has ended. -/
def atPhase (p : Phase) (regs : Memory) : State :=
  { State.resetWith Config.default [] [] with
    regs := regs, sched := [⟨.renderer, none⟩]
    renderer := { Renderer.fresh with phase := p }
    draws := { Draws.fresh with orders := [0, 0], ticks := [(0, 0)] } }

/-- The next step answers a state with this property. -/
def after (s : State) (p : State → Bool) : Bool :=
  match step s with
  | .next t => p t
  | .fault _ | .refused _ => false

/-- The response of client 0 after the next step. -/
def responseOf (t : State) : Option Byte :=
  match t.clients with
  | c :: _ => c.response
  | [] => none

/-- The bytes of the four planes at an offset. -/
def column (t : State) (a : Nat) : List Byte := allPlanes.map fun k => t.plane k a

/-! ## Well-formedness -/

/-- A chunk whose length does not fit its count word has no encoding (R98). -/
theorem test_wf_refuses_long_chunk : Instr.wf (.writeChunk 0 (List.replicate (2 ^ 32) 0)) = false := by
  simp only [Instr.wf, List.length_replicate, lt_self_iff_false, decide_false]

theorem test_wf_accepts_chunk : Instr.wf (.writeChunk 0xFFFF [1, 2, 3]) = true := by decide

/-! ## Decoding: words written out bit by bit (R91 to R102) -/

/-- OP 0001, SEL 01, RSV 00, DATA 0, ADDR 0x0013 (R94; V-R1). -/
theorem test_decode_getReg : decode (.words [0b0001_01_00_00000000_0000000000010011]) = some (.getReg .crt 0x13) := by
  decide

/-- OP 0010, SEL 10, RSV 00, DATA 0x12, ADDR 0x0077 (R95; V-R9 with its value). -/
theorem test_decode_setReg : decode (.words [0b0010_10_00_00010010_0000000001110111]) = some (.setReg .gc 0x77 0x12) := by
  decide

/-- OP 0011, SEL 01 (plane 1), RSV 00, DATA 0, ADDR 0xFFFE (R96). -/
theorem test_decode_readPlane : decode (.words [0b0011_01_00_00000000_1111111111111110]) = some (.readPlane 1 0xFFFE) := by
  decide

/-- OP 0100, SEL 00, RSV 00, DATA 0xCC, ADDR 0x7E00 (R97). -/
theorem test_decode_writeByte : decode (.words [0b0100_00_00_11001100_0111111000000000]) = some (.writeByte 0x7E00 0xCC) := by
  decide

/-- OP 0101, count 5, two data words, the last with three zero padding bytes (R98). -/
theorem test_decode_writeChunk :
    decode (.words [0b0101_00_00_00000000_0000000001010000, 5, 0x04030201, 0x00000005])
      = some (.writeChunk 0x50 [1, 2, 3, 4, 5]) := by decide

/-- V-E8: a chunk of no bytes takes no data word (R98). -/
theorem test_decode_emptyChunk : decode (.words [0x50000000, 0]) = some (.writeChunk 0 []) := by decide

/-- OP 0110, SEL 00, RSV 00, DATA 0x12, ADDR 0 (R99; V-R3). -/
theorem test_decode_startRendering : decode (.words [0b0110_00_00_00010010_0000000000000000]) = some (.startRendering 0x12) := by
  decide

/-- V-E17: OP 0111, any other bits (R100). -/
theorem test_decode_writeFull : decode (.words [0b0111_10_10_10111100_1101111011110000]) = some (.writeFull 0xABCDEF0) := by
  decide

/-- The phase register's values 0001 to 0111 (R25, R104). -/
theorem test_decode_phases :
    [0b0001#4, 0b0010, 0b0011, 0b0100, 0b0101, 0b0110, 0b0111].map (fun c => decode (.phase c))
      = [some .frameStart, some .lineBegin, some .column, some .lineEnd, some .frameEnd, some .poll, some .pace] := by
  decide

/-- IDLE, TERMINATED and the values above have no step (R104). -/
theorem test_decode_no_step : [0x0#4, 0x8, 0x9, 0xF].map decodePhase = [none, none, none, none] := by decide

/-- V-E9 to V-E15: each word is illegal (R101, R102). -/
theorem test_decode_illegal :
    [0x00000000#32, 0x80000000, 0x11000002, 0x10010002, 0x2C0F0102, 0x44FF0000, 0x60100001].map (fun w => decodeWords [w])
      = [.illegal 0x00000000, .illegal 0x80000000, .illegal 0x11000002, .illegal 0x10010002, .illegal 0x2C0F0102,
         .illegal 0x44FF0000, .illegal 0x60100001] := by decide

/-- V-E16 and V-E18: nonzero padding is illegal, a missing data word is not decodable at all (R102, R103). -/
theorem test_decode_chunk_ends :
    decodeWords [0x50000050, 3, 0xAAFF0180] = .illegal 0x50000050
      ∧ decodeWords [0x50000050, 5, 0x04030201] = .truncated := by decide

/-- V-E7's bytes are packed back into V-E7's word. -/
theorem test_encode_chunk : encode (.writeChunk 0x50 [0x80, 0x01, 0xFF]) = .words [0x50000050, 3, 0x00FF0180] := by decide

/-! ## Registers -/

/-- V-R1. -/
theorem test_getReg_responds :
    after (oneClient [(regKey .crt 0x13, 0x28)] [0x14000013]) (fun t => responseOf t = some 0x28) = true := by decide

/-- V-R8: an unknown code responds the byte drawn, without a fault. -/
theorem test_getReg_unknown :
    after (oneClient [] [0x18000077]) (fun t => responseOf t = some 0x3C ∧ t.fault = none) = true := by decide

/-- V-R2. -/
theorem test_setReg_writes :
    after (oneClient [] [0x242A0013]) (fun t => t.reg .crt 0x13 = 0x2A ∧ t.planes = []) = true := by decide

/-- V-S9. -/
theorem test_setReg_status_faults :
    after (oneClient [] [0x200000DA]) (fun t => t.fault = some (.usageFault .statusWrite) ∧ t.regs = []) = true := by decide

/-- V-R6: the caller becomes the renderer. -/
theorem test_startRendering_starts :
    after (oneClient [(regKey .crt 0x13, 0x28)] [0x60100000])
      (fun t => t.renderer.phase = .frameStart ∧ t.clients.all (·.blocked)) = true := by decide

/-- Between its read of CRT Offset 0 and its check another client's event may fall; here the turn ends after the read (R13). -/
theorem test_startRendering_cut :
    after { oneClient [] [0x60100000] with sched := [⟨.client 0, some 3⟩] }
      (fun t => t.fault = none ∧ t.history = [(.client 0, .regRead .crt 0x13 0)]
        ∧ t.clients.map (·.ops) = [[.start 0x10]]) = true := by decide

/-- V-R5: the mode is checked before the pitch. -/
theorem test_startRendering_checks_mode_first :
    after (oneClient [] [0x60120000]) (fun t => t.fault = some (.unsupportedMode 0x12) ∧ t.renderer.phase = .idle) = true := by
  decide

/-! ## Planes -/

/-- V-W3, in another order of the four planes than theirs. -/
theorem test_writeByte_masked :
    after { oneClient (mask 0x05) [0x40A50010] with draws := { Draws.fresh with orders := [17] } }
      (fun t => column t 0x10 = [0xA5, 0x00, 0xA5, 0x00]) = true := by decide

/-- V-W5: bits 7 to 4 of the Map-Mask are ignored. -/
theorem test_writeByte_ignores_high_mask :
    after (oneClient (mask 0xF3) [0x40A50010]) (fun t => column t 0x10 = [0xA5, 0xA5, 0x00, 0x00]) = true := by decide

/-- V-W8: a chunk may end at PLANE_BYTES. -/
theorem test_writeChunk_to_the_end :
    after (oneClient (mask 0x0F) [0x5000FFFE, 2, 0x00002211])
      (fun t => column t 0xFFFE = [0x11, 0x11, 0x11, 0x11] ∧ column t 0xFFFF = [0x22, 0x22, 0x22, 0x22]) = true := by decide

/-- V-W9 and P4a. -/
theorem test_writeChunk_past_the_end :
    after (oneClient (mask 0x0F) [0x5000FFFE, 3, 0x00030201])
      (fun t => t.fault = some (.boundsFault 65536) ∧ t.planes = []) = true := by decide

/-- V-W7: plane 2 holds 0xA5, plane 1 does not. -/
theorem test_readPlane_responds :
    after { oneClient [] [0x38000010] with planes := [(planeKey 2 0x10, 0xA5)] } (fun t => responseOf t = some 0xA5) = true := by
  decide

/-- Another plane holds another byte; and cut before its response, the command has returned nothing yet (R13). -/
theorem test_readPlane_other_plane :
    after { oneClient [] [0x34000010] with planes := [(planeKey 2 0x10, 0xA5)] } (fun t => responseOf t = some 0x00) = true
      ∧ after { oneClient [] [0x34000010] with sched := [⟨.client 0, some 1⟩] }
        (fun t => responseOf t = none ∧ t.history.length = 1 ∧ t.clients.map (·.ops) = [[.respond]]) = true := by decide

/-- V-W14. -/
theorem test_writeFull_refused :
    after (oneClient [] [0x70000000]) (fun t => t.fault = some (.refused "WRITE_FULL")) = true := by decide

/-- V-W12's parameters. -/
def strict (regs : Memory) (ws : List Word) : State :=
  { oneClient regs ws with cfg := { Config.default with addrMode := .faultNonPlanar } }

/-- V-W12: not planar, then planar. -/
theorem test_writeByte_policy :
    after (strict (mask 0x0F) [0x40010000]) (fun t => t.fault = some (.addressingModeFault 0)) = true
      ∧ after (strict [(regKey .seq 0x02, 0x0F), (regKey .seq 0x04, 0x06)] [0x40010000])
        (fun t => column t 0 = [1, 1, 1, 1]) = true := by decide

/-! ## Compositor and signals -/

/-- V-C5 and V-C6. -/
theorem test_composite :
    composite 0x0F 0x33 0x55 0x00 = [0, 4, 2, 6, 1, 5, 3, 7]
      ∧ composite 0xF0 0xCC 0xAA 0xFF = [15, 11, 13, 9, 14, 10, 12, 8] := by decide

/-- V-C7: bit 0 is the rightmost pixel. -/
theorem test_lane_order : pixelIndex 0x01 0 0 0 7 = 1 ∧ pixelIndex 0x01 0 0 0 0 = 0 := by decide

/-- S3. -/
theorem test_palette_ends : rgb Config.default 0 = ⟨0, 0, 0⟩ ∧ rgb Config.default 15 = ⟨254, 254, 254⟩ := by decide

/-- V-S1, V-S3, V-S5, V-S7. -/
theorem test_signals :
    [signalByte Config.default .vr true 0x01, signalByte Config.default .vr false 0xFF,
      signalByte Config.default .de true 0x00, signalByte Config.default .de false 0xF1] = [0x09, 0xF7, 0x01, 0xF0] := by
  decide

/-! ## Renderer and pacer -/

/-- V-F1. -/
theorem test_frameStart :
    after (atPhase .frameStart [(regKey .gen 0xDA, 0x09), (regKey .crt 0x0C, 0x7E), (regKey .crt 0x13, 42)])
      (fun t => t.renderer.pitch = 84 ∧ t.renderer.start = 0x7E00 ∧ t.renderer.rowBase = 32256 ∧ t.status = 0x01
        ∧ t.renderer.phase = .lineBegin) = true := by decide

/-- V-F2: ClrVR is already done. -/
theorem test_frameStart_zero_pitch :
    after (atPhase .frameStart [(regKey .gen 0xDA, 0x09)])
      (fun t => t.fault = some (.nonPositivePitch 0) ∧ t.status = 0x01) = true := by decide

/-- V-F3. -/
theorem test_lineBegin :
    after (atPhase .lineBegin [(regKey .gen 0xDA, 0x01)])
      (fun t => t.status = 0x00 ∧ t.renderer.col = 0 ∧ t.renderer.phase = .column) = true := by decide

/-- V-F4. -/
theorem test_column :
    after { atPhase .column [] with planes := [(planeKey 0 0, 0xFF)] }
      (fun t => (t.pixel 0 0 = ⟨0, 0, 0xA8⟩ ∧ t.pixel 0 7 = ⟨0, 0, 0xA8⟩ ∧ t.pixel 0 8 = ⟨0, 0, 0⟩)
        ∧ t.renderer.col = 1 ∧ t.renderer.phase = .column) = true := by decide

/-- V-F5. -/
theorem test_column_out_of_bounds :
    after { atPhase .column [] with renderer := { Renderer.fresh with phase := .column, rowBase := 65520, col := 16 } }
      (fun t => t.fault = some (.boundsFault 65536) ∧ t.history = [(.renderer, .fault (.boundsFault 65536))]) = true := by decide

/-- V-F7. -/
theorem test_lineEnd :
    after { atPhase .lineEnd [] with renderer := { Renderer.fresh with phase := .lineEnd, pitch := 80 } }
      (fun t => t.renderer.rowBase = 80 ∧ t.renderer.y = 1 ∧ t.status = 0x01 ∧ t.renderer.phase = .lineBegin) = true := by decide

/-- V-F8. -/
theorem test_lineEnd_last :
    after { atPhase .lineEnd [] with renderer := { Renderer.fresh with phase := .lineEnd, y := 349 } }
      (fun t => t.renderer.y = 350 ∧ t.renderer.phase = .frameEnd) = true := by decide

/-- V-F9. -/
theorem test_frameEnd_accepted :
    after { atPhase .frameEnd [(regKey .gen 0xDA, 0x01)] with draws := { Draws.fresh with presents := [.accepted] } }
      (fun t => t.status = 0x09 ∧ t.renderer.phase = .poll) = true := by decide

/-- V-F10. -/
theorem test_frameEnd_failed :
    after { atPhase .frameEnd [] with draws := { Draws.fresh with presents := [.failed] } }
      (fun t => t.fault = some .outputSurfaceFault) = true := by decide

/-- V-F11. -/
theorem test_poll :
    after { atPhase .poll [] with draws := { Draws.fresh with terminates := [true] } }
      (fun t => t.renderer.phase = .terminated) = true
      ∧ after { atPhase .poll [] with draws := { Draws.fresh with terminates := [false] } }
        (fun t => t.renderer.phase = .pace) = true := by decide

/-- A clock reading a fraction of a second after the frame's, which was 0. -/
def paceAt (num den : Nat) : State :=
  { atPhase .pace [] with draws := { Draws.fresh with ticks := [(num, den - 1)], wakes := 1 } }

/-- V-P1 (S1): 10 ms taken, 1/150 s of sleep. -/
theorem test_pace_sleeps :
    after (paceAt 1 100) (fun t => t.history = [(.renderer, .sleep (1 / 150))] ∧ t.renderer.phase = .frameStart) = true := by
  decide +kernel

/-- V-P2 (S2): 20 ms taken, an overrun of 1/300 s and no fault; and exactly the budget taken, an overrun of 0 (R190). -/
theorem test_pace_overruns :
    after (paceAt 1 50) (fun t => t.history = [(.renderer, .overrun (1 / 300))] ∧ t.fault = none) = true
      ∧ after (paceAt 1 60) (fun t => t.history = [(.renderer, .overrun 0)]) = true := by decide +kernel

/-! ## Witnesses: states and operands that meet a statement's hypotheses together -/

/-- Registers in which writes reach every plane, planar addressing is set and CRT Offset is 40. -/
def planarRegs : Memory :=
  [(regKey .crt 0x13, 0x28), (regKey .seq 0x02, 0x0F), (regKey .seq 0x04, 0x06)]

/-- Client 0 without commands, at turn with a grant of exactly `n` events. -/
def granted (n : Nat) (regs : Memory) : State := { oneClient regs [] with grant := some n }

/-- The renderer at a phase, at turn with a grant of exactly `n` events. -/
def grantedAt (n : Nat) (p : Phase) (regs : Memory) : State := { atPhase p regs with grant := some n }

/-- A client with nothing to do. -/
def idle : Client := Client.fresh []

theorem witness_DecodeInvertsEncode :
    Instr.wf (.writeChunk 0xFFFF []) = true ∧ Instr.wf (.writeChunk 0 [1, 2, 3, 4, 5]) = true
      ∧ Instr.wf (.writeFull 0xFFFFFFF) = true := by decide

theorem witness_StreamDecodesCommandByCommand :
    Instr.wf (.setReg .seq 0x02 0x0F) = true ∧ encode (.setReg .seq 0x02 0x0F) = .words [0x2C0F0002] := by decide

theorem witness_DecodedWordsAreTheEncoding :
    decodeWords [0x50000050, 3, 0x00FF0180, 0x60100000] = .command (.writeChunk 0x50 [0x80, 0x01, 0xFF]) [0x60100000] := by
  decide

/-- The count 5 needs two data words and has one; a first word with no count. -/
theorem witness_TruncatedChunkLeavesClientStuck :
    (∃ c, (oneClient [] [commandWord 5 0 0 0x50, 5, 0x04030201]).clients[0]? = some c ∧ c.ops = []
      ∧ [0x04030201#32].length < ((5#32).toNat + 3) / 4 ∧ c.stream = commandWord 5 0 0 0x50 :: 5 :: [0x04030201])
    ∧ ∃ c, (oneClient [] [commandWord 5 0 0 0x50]).clients[0]? = some c ∧ c.ops = []
      ∧ ([] : List Word).length < ((1#32).toNat + 3) / 4 ∧ c.stream = [commandWord 5 0 0 0x50] :=
  ⟨⟨_, rfl, by decide⟩, _, rfl, by decide⟩

theorem witness_StepRunsTheDecodedCommand :
    (oneClient [] [0x2C0F0002, 0x60100000]).running = true
      ∧ (oneClient [] [0x2C0F0002, 0x60100000]).sched = ⟨.client 0, none⟩ :: []
      ∧ (oneClient [] [0x2C0F0002, 0x60100000]).clients[0]? = some (Client.fresh [0x2C0F0002, 0x60100000])
      ∧ (Client.fresh [0x2C0F0002, 0x60100000]).blocked = false ∧ (Client.fresh [0x2C0F0002, 0x60100000]).ops = []
      ∧ decodeWords (Client.fresh [0x2C0F0002, 0x60100000]).stream = .command (.setReg .seq 0x02 0x0F) [0x60100000] := by
  decide

theorem witness_StepRunsThePhasesStep :
    (atPhase .frameStart []).running = true ∧ (atPhase .frameStart []).sched = ⟨.renderer, none⟩ :: []
      ∧ (atPhase .frameStart []).renderer.hold = none ∧ (atPhase .frameStart []).renderer.ops = []
      ∧ encode .frameStart = .phase (atPhase .frameStart []).renderer.phase.code
      ∧ encode .pace = .phase (atPhase .pace []).renderer.phase.code := by decide

/-- Client 0 in the middle of a WRITE_BYTE. -/
def halfway : State :=
  { oneClient (mask 0x0F) [] with clients := [{ Client.fresh [] with ops := [.writePlane 3 0xFFFF 0xA5] }] }

theorem witness_StepResumesPendingEvents :
    (∃ c, halfway.running = true ∧ halfway.sched = ⟨.client 0, none⟩ :: [] ∧ halfway.clients[0]? = some c
      ∧ c.blocked = false ∧ c.ops ≠ [])
    ∧ ({ atPhase .lineBegin [] with renderer := { Renderer.fresh with phase := .lineBegin, ops := [.enterColumns] } }).running
        = true
      ∧ ({ atPhase .lineBegin [] with
            renderer := { Renderer.fresh with phase := .lineBegin, ops := [.enterColumns] } }).answered = true :=
  ⟨⟨_, by decide, rfl, rfl, by decide⟩, by decide⟩

theorem witness_ReservedOpRaisesIllegalCommand :
    (oneClient [] [0x00000000]).running = true ∧ (oneClient [] [0x00000000]).sched = ⟨.client 0, none⟩ :: []
      ∧ (oneClient [] [0x00000000]).clients[0]? = some (Client.fresh [0x00000000])
      ∧ (Client.fresh [0x00000000]).blocked = false ∧ (Client.fresh [0x00000000]).ops = []
      ∧ reservedOp 0x00000000 ∧ reservedOp 0x80000000 ∧ reservedOp 0xFFFFFFFF := by
  unfold reservedOp; decide

/-- One word for each field that must be 0 (V-E11 to V-E15 among them), and V-E16's padding. -/
theorem witness_MalformedCommandRaisesIllegalCommand :
    ((oneClient [] [0x50000050, 3, 0xAAFF0180]).running = true
      ∧ (oneClient [] [0x50000050, 3, 0xAAFF0180]).sched = ⟨.client 0, none⟩ :: []
      ∧ (oneClient [] [0x50000050, 3, 0xAAFF0180]).clients[0]? = some (Client.fresh [0x50000050, 3, 0xAAFF0180])
      ∧ (Client.fresh [0x50000050, 3, 0xAAFF0180]).blocked = false ∧ (Client.fresh [0x50000050, 3, 0xAAFF0180]).ops = []
      ∧ (Client.fresh [0x50000050, 3, 0xAAFF0180]).stream = 0x50000050 :: [3, 0xAAFF0180])
    ∧ malformedPadding 0x50000050 [3, 0xAAFF0180]
    ∧ ∀ w ∈ [0x11000002#32, 0x10010002, 0x10000102, 0x21000002, 0x2C0F0102, 0x31000000, 0x30010000, 0x44FF0000, 0x41000000,
        0x54000000, 0x51000000, 0x50010000, 0x64100000, 0x61100000, 0x60100001], malformedFields w := by
  refine ⟨by decide, ⟨by decide, 3, [0xAAFF0180], 0xAAFF0180, by decide⟩, ?_⟩
  intro w hw
  simp only [List.mem_cons, List.not_mem_nil, or_false] at hw
  unfold malformedFields
  rcases hw with rfl | rfl | rfl | rfl | rfl | rfl | rfl | rfl | rfl | rfl | rfl | rfl | rfl | rfl | rfl <;> decide

theorem witness_RecordedFaultStopsEveryAgent :
    ({ State.reset with fault := some (.boundsFault 65536) }).fault = some (.boundsFault 65536) := by decide

theorem witness_TerminatedMachineHasNoStep :
    (atPhase .terminated []).fault = none ∧ (atPhase .terminated []).renderer.phase = .terminated := by decide

/-- A client, and the renderer, once in a hold that the host has answered. -/
theorem witness_EveryEnabledAgentMayMoveNext :
    ((oneClient [] [0x60100000]).running = true ∧ (oneClient [] [0x60100000]).agentEnabled (.client 0) = true
      ∧ (oneClient [] [0x60100000]).sched = ⟨.client 0, none⟩ :: [])
    ∧ ((atPhase .column []).running = true ∧ (atPhase .column []).agentEnabled .renderer = true
      ∧ (atPhase .column []).sched = ⟨.renderer, none⟩ :: [])
    ∧ ({ atPhase .frameEnd [] with
          renderer := { Renderer.fresh with phase := .frameEnd, hold := some .present, ops := [.awaitHost, .enter .poll] }
          draws := { Draws.fresh with presents := [.accepted] } }).agentEnabled .renderer = true := by decide

theorem witness_EveryOrderOfEventsIsAdmitted :
    [ClientOp.writePlane 1 0 0, .writePlane 0 0 0].Perm [.writePlane 0 0 0, .writePlane 1 0 0]
      ∧ [RendererOp.latchPlane 3 0, .latchPlane 1 0].Perm [.latchPlane 1 0, .latchPlane 3 0] := by decide

/-- Two of three events performed, one pending. -/
theorem witness_InterruptedCommandResumesToTheSameEnd :
    (granted 2 (mask 0x0F)).clients[0]? = some idle
      ∧ (runClient 0 [.writePlane 0 1 1, .writePlane 1 1 1, .writePlane 2 1 1] (some 2) (granted 2 (mask 0x0F))).running = true
      ∧ (runClient 0 [.writePlane 0 1 1, .writePlane 1 1 1, .writePlane 2 1 1] (some 2) (granted 2 (mask 0x0F))).clients[0]?
          = some { idle with ops := [.writePlane 2 1 1] } := by decide

/-- A known and an unknown code, with and without a byte drawn. -/
theorem witness_GetRegRespondsAndChangesNothingElse :
    (granted 2 []).covers 2 = true ∧ (granted 2 []).clients[(granted 2 []).issuer]? = some idle
      ∧ (granted 2 []).knows .gen 0xDA = true ∧ (granted 2 []).knows .gc 0x77 = false
      ∧ (granted 2 []).draws.bytes = 0x3C :: [0xC3]
      ∧ ({ granted 2 [] with draws := Draws.fresh }).draws.bytes = [] := by decide

theorem witness_SetRegReplacesTheByte :
    (granted 1 []).covers 1 = true ∧ (granted 1 []).clients[(granted 1 []).issuer]? = some idle
      ∧ ¬(Bank.seq = .gen ∧ (0x02 : Byte) = (granted 1 []).cfg.idStatus) ∧ (granted 1 []).knows .seq 0x02 = true
      ∧ ¬(Bank.gen = .gen ∧ (0x77 : Byte) = (granted 1 []).cfg.idStatus) ∧ (granted 1 []).knows .gen 0x77 = false := by
  decide

theorem witness_StatusWriteIsUsageFault : (granted 1 []).covers 1 = true ∧ State.reset.covers 1 = true := by decide

theorem witness_StartRenderingStartsTheFrameLoop :
    (granted 4 planarRegs).covers 4 = true ∧ (granted 4 planarRegs).clients[(granted 4 planarRegs).issuer]? = some idle
      ∧ (granted 4 planarRegs).renderer.phase = .idle
      ∧ (granted 4 planarRegs).reg .crt (granted 4 planarRegs).cfg.idCrtOffset ≠ 0 := by decide

/-- Each of the three failing checks. -/
theorem witness_StartRenderingRejectsBadConfiguration :
    ((atPhase .column planarRegs).covers 4 = true ∧ (atPhase .column planarRegs).issuer < (atPhase .column []).clients.length
      ∧ (atPhase .column planarRegs).renderer.phase ≠ .idle)
    ∧ ((granted 4 planarRegs).covers 4 = true ∧ (granted 4 planarRegs).issuer < (granted 4 planarRegs).clients.length
      ∧ (granted 4 planarRegs).renderer.phase = .idle ∧ (0x12 : Byte) ≠ (granted 4 planarRegs).cfg.supportedMode)
    ∧ (granted 4 []).covers 4 = true ∧ (granted 4 []).issuer < (granted 4 []).clients.length
      ∧ (granted 4 []).renderer.phase = .idle ∧ (0x10 : Byte) = (granted 4 []).cfg.supportedMode
      ∧ (granted 4 []).reg .crt (granted 4 []).cfg.idCrtOffset = 0 := by decide

/-- The one client has become the renderer, which is on its first frame. -/
theorem witness_BlockedClientNeverMovesAgain :
    (∃ c, ({ atPhase .frameStart [] with clients := [{ idle with blocked := true }] }).clients[0]? = some c
      ∧ c.blocked = true)
    ∧ ∃ t, step { atPhase .frameStart [] with clients := [{ idle with blocked := true }] } = .next t :=
  ⟨⟨_, rfl, rfl⟩, _, rfl⟩

theorem witness_ReadPlaneRespondsTheByte :
    (granted 2 []).covers 2 = true ∧ (granted 2 []).clients[(granted 2 []).issuer]? = some idle
      ∧ (0xFFFF : BitVec 16).toNat < (granted 2 []).cfg.planeBytes := by decide

/-- V-W11's machine at its boundary. -/
def smallPlanes (n : Nat) : State := { granted n (mask 0x0F) with cfg := { Config.default with planeBytes := 32768 } }

theorem witness_OutOfBoundsByteAccessFaults :
    (smallPlanes 1).covers 1 = true ∧ (smallPlanes 1).cfg.planeBytes ≤ (0x8000 : BitVec 16).toNat
      ∧ (smallPlanes 1).cfg.wf = true := by decide

/-- Both addressing policies, the last offset. -/
theorem witness_WriteByteReachesExactlyTheEnabledPlanes :
    ((granted 4 (mask 0x05)).covers (eventsPerByte (granted 4 (mask 0x05)).cfg) = true
      ∧ (granted 4 (mask 0x05)).clients[(granted 4 (mask 0x05)).issuer]? = some idle
      ∧ (0xFFFF : BitVec 16).toNat < (granted 4 (mask 0x05)).cfg.planeBytes ∧ (granted 4 (mask 0x05)).mayWrite = true)
    ∧ (strict planarRegs []).covers (eventsPerByte (strict planarRegs []).cfg) = true
      ∧ (strict planarRegs []).clients[(strict planarRegs []).issuer]? = some idle
      ∧ (0xFFFF : BitVec 16).toNat < (strict planarRegs []).cfg.planeBytes ∧ (strict planarRegs []).mayWrite = true := by
  decide

/-- A byte and a chunk that ends at PLANE_BYTES. -/
theorem witness_NonPlanarWriteFaults :
    (strict [] []).covers 4 = true ∧ (strict [] []).issuer < (strict [] []).clients.length
      ∧ (strict [] []).cfg.addrMode = .faultNonPlanar ∧ (strict [] []).planar = false
      ∧ (0xFFFE : BitVec 16).toNat < (strict [] []).cfg.planeBytes
      ∧ (0xFFFE : BitVec 16).toNat + [(1 : Byte), 2].length ≤ (strict [] []).cfg.planeBytes := by decide

/-- V-W8's chunk. -/
theorem witness_WriteChunkWritesItsRange :
    (granted 8 (mask 0x0F)).covers ([(0x11 : Byte), 0x22].length * eventsPerByte (granted 8 (mask 0x0F)).cfg) = true
      ∧ (granted 8 (mask 0x0F)).clients[(granted 8 (mask 0x0F)).issuer]? = some idle
      ∧ (0xFFFE : BitVec 16).toNat + [(0x11 : Byte), 0x22].length ≤ (granted 8 (mask 0x0F)).cfg.planeBytes
      ∧ (granted 8 (mask 0x0F)).mayWrite = true := by decide

theorem witness_EmptyChunkIsNoOp :
    (granted 0 []).running = true ∧ (granted 0 []).clients[(granted 0 []).issuer]? = some idle := by decide

/-- V-W9's chunk, and V-W11's, whose offset itself is out of bounds. -/
theorem witness_ChunkPastTheEndWritesNothing :
    ((granted 1 []).covers 1 = true ∧ [(1 : Byte), 2, 3] ≠ []
      ∧ (granted 1 []).cfg.planeBytes < (0xFFFE : BitVec 16).toNat + [(1 : Byte), 2, 3].length)
    ∧ (smallPlanes 1).covers 1 = true ∧ (smallPlanes 1).cfg.planeBytes < (0x9000 : BitVec 16).toNat + [(1 : Byte)].length := by
  decide

theorem witness_WriteFullIsRefused : (granted 1 []).covers 1 = true := by decide

theorem witness_MaskedPlanesAreNeverWritten :
    (∃ t, exec (.writeByte 0xFFFF 0xA5) (granted 4 (mask 0x05)) = .next t)
      ∧ (granted 4 (mask 0x05)).mapMask.getLsbD (1 : Fin 4).val = false := ⟨⟨_, rfl⟩, by decide⟩

/-- A command of each of the three clauses. -/
theorem witness_PlanesAndRegistersAreWrittenOnlyByTheirOwn :
    (∃ t, exec (.setReg .seq 0x02 0x0F) (granted 1 []) = .next t)
      ∧ (∃ t, exec (.writeByte 0 0xA5) (granted 4 (mask 0x05)) = .next t)
      ∧ encode (.writeByte 0 0xA5) = .words [0x40A50000]
      ∧ (∃ t, exec .lineBegin (grantedAt 2 .lineBegin []) = .next t) ∧ encode .lineBegin = .phase 2 :=
  ⟨⟨_, rfl⟩, ⟨_, rfl⟩, by decide, ⟨_, rfl⟩, rfl⟩

theorem witness_FrameStartLatchesTheFrame :
    (grantedAt 6 .frameStart planarRegs).covers 6 = true
      ∧ (grantedAt 6 .frameStart planarRegs).reg .crt (grantedAt 6 .frameStart planarRegs).cfg.idCrtOffset ≠ 0 := by decide

theorem witness_ZeroPitchStopsFrameStart :
    (grantedAt 6 .frameStart []).covers 6 = true
      ∧ (grantedAt 6 .frameStart []).reg .crt (grantedAt 6 .frameStart []).cfg.idCrtOffset = 0 := by decide

theorem witness_LineBeginClearsDisplayEnable : (grantedAt 2 .lineBegin []).covers 2 = true := by decide

/-- The last column of the last scanline, at the last offset. -/
theorem witness_ColumnDrawsEightPixels :
    let s := { grantedAt 5 .column [] with
      renderer := { Renderer.fresh with phase := .column, y := 349, col := 79, rowBase := 65456 } }
    s.covers 5 = true ∧ s.renderer.phase = .column ∧ s.renderer.y < displayH ∧ s.renderer.col < cols
      ∧ s.renderer.rowBase + s.renderer.col < s.cfg.planeBytes := by decide

/-- V-F5. -/
theorem witness_ColumnOutOfBoundsFaults :
    let s := { grantedAt 1 .column [] with
      renderer := { Renderer.fresh with phase := .column, col := 16, rowBase := 65520 } }
    s.covers 1 = true ∧ s.cfg.planeBytes ≤ s.renderer.rowBase + s.renderer.col := by decide

theorem witness_LineEndAdvancesTheRow : (grantedAt 3 .lineEnd []).covers 3 = true := by decide

/-- FRAME_END with the host's answer already given. -/
def presenting (o : PresentOutcome) : State :=
  { grantedAt 4 .frameEnd [] with draws := { Draws.fresh with presents := [o] } }

theorem witness_FrameEndPresentsTheFramebuffer :
    ((presenting .accepted).covers 4 = true ∧ (presenting .accepted).draws.presents = .accepted :: [])
    ∧ (presenting .failed).covers 4 = true ∧ (presenting .failed).draws.presents = .failed :: [] := by decide

theorem witness_UnansweredPresentHoldsTheRenderer :
    (grantedAt 4 .frameEnd []).covers 4 = true ∧ (grantedAt 4 .frameEnd []).draws.presents = [] := by decide

/-- A renderer in a hold, next at turn with a grant of exactly 2 events. -/
def held (p next : Phase) (h : Hold) (d : Draws) : State :=
  { atPhase p [] with
    sched := [⟨.renderer, some 2⟩], draws := d
    renderer := { Renderer.fresh with phase := p, hold := some h, ops := [.awaitHost, .enter next] } }

/-- Each answer. -/
theorem witness_HostsAnswerEndsTheHold :
    ((held .frameEnd .poll .present { Draws.fresh with presents := [.accepted] }).running = true
      ∧ (held .frameEnd .poll .present { Draws.fresh with presents := [.accepted] }).sched = ⟨.renderer, some 2⟩ :: []
      ∧ (∀ n, some 2 = some n → 2 ≤ n)
      ∧ (held .frameEnd .poll .present { Draws.fresh with presents := [.accepted] }).renderer.ops = [.awaitHost, .enter .poll]
      ∧ (held .frameEnd .poll .present { Draws.fresh with presents := [.accepted] }).renderer.hold = some .present)
    ∧ (held .frameEnd .poll .present { Draws.fresh with presents := [.failed] }).draws.presents = .failed :: []
    ∧ (held .pace .frameStart .sleep { Draws.fresh with wakes := 1 }).renderer.hold = some .sleep
    ∧ (held .pace .frameStart .sleep { Draws.fresh with wakes := 1 }).draws.wakes = 0 + 1 :=
  ⟨⟨by decide, rfl, fun n h => by cases h; decide, rfl, rfl⟩, rfl, rfl, rfl⟩

/-- The one client has become the renderer, which is held with no answer and no turn scheduled. What the host does next is a
free value, so exactly one clause for each hold speaks of these states. -/
def silent (p next : Phase) (h : Hold) : State :=
  { held p next h Draws.fresh with sched := [], clients := [{ idle with blocked := true }] }

theorem witness_SilentHostLeavesTheRendererHeld :
    ((silent .frameEnd .poll .present).running = true ∧ (silent .frameEnd .poll .present).sched = []
      ∧ (silent .frameEnd .poll .present).noClientMoves ∧ (silent .frameEnd .poll .present).renderer.hold = some .present
      ∧ (silent .frameEnd .poll .present).draws.presents = [] ∧ (silent .frameEnd .poll .present).renderer.ops ≠ []
      ∧ (Config.freePresent (silent .frameEnd .poll .present).draws.count = none
        ∨ ∃ o, Config.freePresent (silent .frameEnd .poll .present).draws.count = some o))
    ∧ ((silent .pace .frameStart .sleep).running = true ∧ (silent .pace .frameStart .sleep).sched = []
      ∧ (silent .pace .frameStart .sleep).noClientMoves ∧ (silent .pace .frameStart .sleep).renderer.hold = some .sleep
      ∧ (silent .pace .frameStart .sleep).draws.wakes = 0 ∧ (silent .pace .frameStart .sleep).renderer.ops ≠ []
      ∧ (Config.freeWake (silent .pace .frameStart .sleep).draws.count = false
        ∨ Config.freeWake (silent .pace .frameStart .sleep).draws.count = true)) :=
  ⟨⟨rfl, rfl, by unfold State.noClientMoves; decide, rfl, rfl, by decide, by
      cases Config.freePresent (silent .frameEnd .poll .present).draws.count <;> simp⟩,
    rfl, rfl, by unfold State.noClientMoves; decide, rfl, rfl, by decide, by
      cases Config.freeWake (silent .pace .frameStart .sleep).draws.count <;> simp⟩

theorem witness_PollTerminatesOrGoesOn :
    (grantedAt 1 .poll []).covers 1 = true ∧ (grantedAt 1 .poll []).draws.terminates = []
      ∧ ({ grantedAt 1 .poll [] with draws := { Draws.fresh with terminates := [true] } }).covers 1 = true := by decide

/-- V-P1 with and without an answered sleep, V-P2, and the boundary: exactly 1/60 s taken, an overrun of 0 (R194). -/
theorem witness_PaceSleepsOrReportsTheOverrun :
    ((paceAt 1 100).covers 3 = true ∧ (paceAt 1 100).renderer.hold = none ∧ 0 < (paceAt 1 100).draws.wakes
      ∧ after (paceAt 1 100) (fun t => t.now - (paceAt 1 100).renderer.t0 < 1 / 60) = true)
    ∧ ((grantedAt 3 .pace []).covers 3 = true ∧ (grantedAt 3 .pace []).renderer.hold = none
      ∧ (grantedAt 3 .pace []).draws.wakes = 0
      ∧ after (grantedAt 3 .pace []) (fun t => t.now - (grantedAt 3 .pace []).renderer.t0 < 1 / 60) = true)
    ∧ ((paceAt 1 50).covers 3 = true ∧ (paceAt 1 50).renderer.hold = none
      ∧ after (paceAt 1 50) (fun t => 1 / 60 ≤ t.now - (paceAt 1 50).renderer.t0) = true)
    ∧ (paceAt 1 60).covers 3 = true ∧ (paceAt 1 60).renderer.hold = none
      ∧ after (paceAt 1 60) (fun t => t.now - (paceAt 1 60).renderer.t0 = 1 / 60) = true := by decide +kernel

/-- A scanline whose last byte is the last of the plane; one client, which has ended. -/
def scanline : State :=
  { atPhase .column [] with
    sched := []
    renderer := { Renderer.fresh with phase := .column, y := 349, rowBase := 65456 } }

theorem witness_ScanlineIsDrawnInEightyColumns :
    cols = 80 ∧ scanline.running = true ∧ scanline.sched = [] ∧ scanline.noClientMoves ∧ scanline.renderer.phase = .column
      ∧ scanline.renderer.ops = [] ∧ scanline.renderer.hold = none ∧ scanline.renderer.col = 0
      ∧ scanline.renderer.y < displayH ∧ scanline.renderer.rowBase + 79 < scanline.cfg.planeBytes := by
  unfold State.noClientMoves; decide

/-- V-F13's frame. -/
def frame : State :=
  { scanline with
    renderer := { Renderer.fresh with phase := .lineBegin, start := 0x7E00, rowBase := 0x7E00, pitch := 84 } }

theorem witness_FrameContentFollowsTheFormula :
    frame.running = true ∧ frame.sched = [] ∧ frame.noClientMoves ∧ frame.renderer.phase = .lineBegin
      ∧ frame.renderer.ops = [] ∧ frame.renderer.hold = none ∧ frame.renderer.y = 0
      ∧ frame.renderer.rowBase = frame.renderer.start
      ∧ frame.renderer.start + 349 * frame.renderer.pitch + 79 < frame.cfg.planeBytes := by
  unfold State.noClientMoves; decide

theorem witness_StepKeepsTheParameters : ∃ t, step (oneClient [] [0x60100000]) = .next t := ⟨_, rfl⟩

theorem witness_StepKeepsCanonicalForm :
    Canonical (oneClient planarRegs [0x40A5FFFF]) ∧ ∃ t, step (oneClient planarRegs [0x40A5FFFF]) = .next t :=
  ⟨by unfold Canonical; decide, _, rfl⟩

theorem witness_StepKeepsPlanesInRange :
    PlanesInRange (oneClient planarRegs [0x40A5FFFF]) ∧ ∃ t, step (oneClient planarRegs [0x40A5FFFF]) = .next t :=
  ⟨by unfold PlanesInRange; decide, _, rfl⟩

/-- Both cases of the invariant's count: a step that records a fault, from a state with none. -/
theorem witness_StepRecordsOneFaultAtMost :
    OneFault (oneClient [] [0x70000000]) ∧ (∃ t, step (oneClient [] [0x70000000]) = .next t)
      ∧ after (oneClient [] [0x70000000]) (fun t => t.fault.isSome) = true :=
  ⟨by unfold OneFault; decide, ⟨_, rfl⟩, by decide⟩

theorem witness_PlaneReadsReturnTheLatestWrite :
    PlanesExplained [] (oneClient planarRegs [0x40A5FFFF]) ∧ ∃ t, step (oneClient planarRegs [0x40A5FFFF]) = .next t :=
  ⟨⟨fun _ _ => rfl, trivial⟩, _, rfl⟩

theorem witness_RegisterReadsReturnTheLatestWrite :
    RegsExplained planarRegs (oneClient planarRegs [0x14000013])
      ∧ ∃ t, step (oneClient planarRegs [0x14000013]) = .next t := ⟨⟨fun _ _ _ => rfl, trivial⟩, _, rfl⟩

theorem witness_StatusBitsWithoutMeaningNeverChange : ∃ t, step (atPhase .lineBegin [(regKey .gen 0xDA, 0xF1)]) = .next t :=
  ⟨_, rfl⟩

theorem witness_PacingStaysWithinBounds : TimesOk (paceAt 1 100) ∧ ∃ t, step (paceAt 1 100) = .next t :=
  ⟨⟨by decide +kernel, by decide +kernel, fun _ h => by cases h⟩, _, rfl⟩

/-- A latched frame at its first scanline, and the same frame presented and polled. -/
theorem witness_StepKeepsTheRendererInPosition :
    frame.cfg.wf = true ∧ RendererInPosition frame ∧ (∃ t, step frame = .next t)
      ∧ RendererInPosition (atPhase .poll [(regKey .gen 0xDA, 0x09)]) :=
  ⟨by decide, fun _ => ⟨rfl, by unfold OnScanline FrameLatched; decide, .inl ⟨.inl rfl, by decide⟩⟩, ⟨_, rfl⟩,
    fun _ => ⟨rfl, by decide, by decide, .inl rfl⟩⟩

end Sys2Proof.Tests
end

/-! The parameters and the number of clients (00_scope.md R7, R11, R32): no event of any agent changes them, so no step
does. -/

namespace Sys2Proof.Machine

/-- `t` has the parameters of `s`, and as many clients. -/
def SameParameters (s t : State) : Prop := t.cfg = s.cfg ∧ t.clients.length = s.clients.length

theorem SameParameters.refl (s : State) : SameParameters s s := ⟨rfl, rfl⟩

theorem SameParameters.trans {s t u : State} (hst : SameParameters s t) (htu : SameParameters t u) :
    SameParameters s u := ⟨htu.1.trans hst.1, htu.2.trans hst.2⟩

theorem ClientEffect.sameParameters {k : Nat} {s t : State} (h : ClientEffect k s t) : SameParameters s t := by
  cases h with
  | clients cs hl => exact ⟨rfl, hl⟩
  | regRead bank id v cs d hl hv => exact ⟨rfl, hl⟩
  | planeRead p a cs hl => exact ⟨rfl, hl⟩
  | start mode cs hl hp => exact ⟨rfl, hl⟩
  | fault | readFault | regWrite | unknownWrite | planeWrite => exact ⟨rfl, rfl⟩

theorem RendererEffect.sameParameters {s t : State} (h : RendererEffect s t) : SameParameters s t := by
  cases h <;> exact ⟨rfl, rfl⟩

/-- Having the parameters and the number of clients of a fixed state is kept by every event. -/
theorem keptByEvents_sameParameters (s : State) : KeptByEvents (SameParameters s) where
  bookkeeping _ _ _ _ _ _ hlen h := h.trans ⟨rfl, hlen⟩
  client k op t _ h := h.trans (performClient_effect k op t).sameParameters
  renderer op t _ h := h.trans (performRenderer_effect op t).sameParameters
  pending _ _ h := h.trans ⟨rfl, rfl⟩

/-- Settles O48: every event keeps them, and a step is made of events. -/
theorem stepKeepsTheParameters : Obligations.StepKeepsTheParameters := by
  unfold Obligations.StepKeepsTheParameters
  intro s t hstep
  exact (keptByEvents_sameParameters s).step (SameParameters.refl s) hstep

end Sys2Proof.Machine

/-! The state at reset (10_state.md R38, 70_reset_and_hazards.md R260), and the base cases there of the invariants of every
step. -/

namespace Sys2Proof.Machine

/-- A machine right after reset has each of its streams in a fresh client. -/
theorem resetWith_clientStates (cfg : Config) (first : List Word) (more : List (List Word)) :
    ((State.resetWith cfg first more).clients.map fun c => (c.stream, c.response, c.blocked))
      = (first :: more).map fun ws => (ws, none, false) := by
  simp [State.resetWith, Client.fresh, Function.comp_def]

/-- R11: there is at least one client. -/
theorem resetWith_one_le_clients (cfg : Config) (first : List Word) (more : List (List Word)) :
    1 ≤ (State.resetWith cfg first more).clients.length := by
  simp [State.resetWith]

theorem configDefault_wf : Config.default.wf = true := by decide

/-- Settles O16: each clause is a field of `State.resetWith`. -/
theorem resetLeavesIdleMachine : Obligations.ResetLeavesIdleMachine := by
  unfold Obligations.ResetLeavesIdleMachine
  refine ⟨fun cfg first more => ⟨rfl, rfl, rfl, rfl, ?_, ?_⟩, rfl, configDefault_wf⟩
  · exact resetWith_clientStates cfg first more
  · exact resetWith_one_le_clients cfg first more

/-- Settles O49: the empty list is in canonical form. -/
theorem resetIsCanonical : Obligations.ResetIsCanonical := ⟨rfl, rfl, rfl⟩

theorem atPhase_reset : AtPhase State.reset := ⟨rfl, rfl, rfl⟩

theorem oneFault_reset : OneFault State.reset := rfl

theorem timesOk_reset : TimesOk State.reset :=
  ⟨le_rfl, le_rfl, fun _ hmem => absurd hmem List.not_mem_nil⟩

/-- Settles O57: the renderer is idle with nothing pending, the history is empty, and both readings are 0. -/
theorem resetIsInPosition : Obligations.ResetIsInPosition :=
  ⟨fun _ => atPhase_reset, oneFault_reset, timesOk_reset⟩

end Sys2Proof.Machine

/-! A recorded fault halts the machine (10_state.md R33, 60_exceptions.md R230). -/

namespace Sys2Proof.Machine

/-- Every instruction issues a plan of events: a client command its client's, a renderer step the renderer's. -/
theorem exec_issues (i : Instr) (s : State) :
    (∃ plan, exec i s = issueCommand plan s) ∨ ∃ plan, exec i s = issueStep plan s := by
  cases i with
  | getReg | setReg | readPlane | writeByte | writeChunk | startRendering | writeFull => exact .inl ⟨_, rfl⟩
  | frameStart | lineBegin | column | lineEnd | frameEnd | poll | pace => exact .inr ⟨_, rfl⟩

theorem issueCommand_of_fault {s : State} {f : FaultRecord} (plan : List ClientOp × State) (hf : s.fault = some f) :
    issueCommand plan s = .fault .halted := by
  simp [issueCommand, hf]

theorem issueStep_of_fault {s : State} {f : FaultRecord} (plan : List RendererOp × State) (hf : s.fault = some f) :
    issueStep plan s = .fault .halted := by
  simp [issueStep, hf]

theorem step_of_fault {s : State} {f : FaultRecord} (hf : s.fault = some f) : step s = .fault .halted := by
  simp [step, hf]

/-- Settles O11: `step` looks at FAULT first, and so does each of the two ways an instruction issues its events. -/
theorem recordedFaultStopsEveryAgent : Obligations.RecordedFaultStopsEveryAgent := by
  unfold Obligations.RecordedFaultStopsEveryAgent
  intro s f hf
  refine ⟨step_of_fault hf, fun i => ?_⟩
  obtain ⟨plan, hplan⟩ | ⟨plan, hplan⟩ := exec_issues i s
  · rw [hplan, issueCommand_of_fault plan hf]
  · rw [hplan, issueStep_of_fault plan hf]

end Sys2Proof.Machine

/-! The canonical form of registers, planes and framebuffer (10_state.md R20, R30, R31): every event replaces a cell, a byte
or eight pixels, or leaves all three storages alone. -/

namespace Sys2Proof.Machine

theorem Canonical.setCell {s : State} (hs : Canonical s) (bank : Bank) (id v : Byte) :
    Canonical (s.setCell bank id v) := by
  obtain ⟨hregs, hplanes, hfb⟩ := hs
  exact ⟨Memory.wf_put _ _ hregs, hplanes, hfb⟩

theorem Canonical.setPlane {s : State} (hs : Canonical s) (p : Fin 4) (a : Nat) (v : Byte) :
    Canonical (s.setPlane p a v) := by
  obtain ⟨hregs, hplanes, hfb⟩ := hs
  exact ⟨hregs, Memory.wf_put _ _ hplanes, hfb⟩

theorem ClientEffect.canonical {k : Nat} {s t : State} (h : ClientEffect k s t) (hs : Canonical s) : Canonical t := by
  cases h with
  | regWrite bank id v hid hk => exact hs.setCell bank id v
  | planeWrite p a v he ha => exact hs.setPlane p a v
  | clients | fault | regRead | readFault | unknownWrite | planeRead | start => exact hs

theorem RendererEffect.canonical {s t : State} (h : RendererEffect s t) (hs : Canonical s) : Canonical t := by
  cases h with
  | signal sig on => exact hs.setCell .gen s.cfg.idStatus _
  | draw y col q r ht0 =>
    obtain ⟨hregs, hplanes, hfb⟩ := hs
    exact ⟨hregs, hplanes, Pixels.wf_paintColumn _ _ _ _ hfb⟩
  | own | fault | time | regRead | planeRead | present | sleep | overrun => exact hs

theorem keptByEvents_canonical : KeptByEvents Canonical where
  bookkeeping _ _ _ _ _ _ _ hs := hs
  client k op s _ hs := (performClient_effect k op s).canonical hs
  renderer op s _ hs := (performRenderer_effect op s).canonical hs
  pending _ _ hs := hs

/-- Settles O50: every event keeps the form, and a step is made of events. -/
theorem stepKeepsCanonicalForm : Obligations.StepKeepsCanonicalForm := by
  unfold Obligations.StepKeepsCanonicalForm
  intro s t hs hstep
  exact keptByEvents_canonical.step hs hstep

end Sys2Proof.Machine

/-! The event history (10_state.md R27) and the fault record (R33): every event appends what it logs, and one that records
a fault logs that fault. -/

namespace Sys2Proof.Machine

/-- An event that is no fault, logged without a change of FAULT. -/
theorem OneFault.log {s t : State} {ag : Agent} {e : Event} (hs : OneFault s) (he : isFault e = false)
    (hfault : t.fault = s.fault) (hhist : t.history = (ag, e) :: s.history) : OneFault t := by
  unfold OneFault at hs ⊢
  simp [hhist, hfault, faultEvents, he, hs]

/-- A fault raised where none is recorded. -/
theorem OneFault.raise {s : State} (hs : OneFault s) (hnone : s.fault = none) (ag : Agent) (f : FaultRecord) :
    OneFault (s.raise ag f) := by
  have hzero : faultEvents s.history = 0 := by simpa [OneFault, hnone] using hs
  simp [OneFault, faultEvents, isFault, hzero]

theorem ClientEffect.oneFault {k : Nat} {s t : State} (h : ClientEffect k s t) (hnone : s.fault = none)
    (hs : OneFault s) : OneFault t := by
  have hread (bank : Bank) (id : Byte) : OneFault (s.readReg (.client k) bank id) := hs.log rfl rfl rfl
  cases h with
  | clients | start => exact hs
  | fault f => exact hs.raise hnone _ f
  | readFault bank id f => exact (hread bank id).raise hnone _ f
  | planeWrite p a v he ha => exact (hread .seq s.cfg.idMapMask).log rfl rfl rfl
  | regRead | regWrite | unknownWrite | planeRead => exact hs.log rfl rfl rfl

theorem RendererEffect.oneFault {s t : State} (h : RendererEffect s t) (hnone : s.fault = none) (hs : OneFault s) :
    OneFault t := by
  cases h with
  | own | time | draw => exact hs
  | fault f d => exact OneFault.raise (s := { s with draws := d }) hs hnone _ f
  | signal | regRead | planeRead | present | sleep | overrun => exact hs.log rfl rfl rfl

theorem keptByEvents_oneFault : KeptByEvents OneFault where
  bookkeeping _ _ _ _ _ _ _ hs := hs
  client k op s hrun hs := (performClient_effect k op s).oneFault (s.running_iff.1 hrun).1 hs
  renderer op s hrun hs := (performRenderer_effect op s).oneFault (s.running_iff.1 hrun).1 hs
  pending _ _ hs := hs

theorem ClientEffect.history_suffix {k : Nat} {s t : State} (h : ClientEffect k s t) : s.history <:+ t.history := by
  cases h with
  | clients | start => exact List.suffix_rfl
  | fault | regRead | regWrite | unknownWrite | planeRead => exact List.suffix_cons _ _
  | readFault | planeWrite => exact List.suffix_append [_, _] _

theorem RendererEffect.history_suffix {s t : State} (h : RendererEffect s t) : s.history <:+ t.history := by
  cases h with
  | own | time | draw => exact List.suffix_rfl
  | fault | signal | regRead | planeRead | present | sleep | overrun => exact List.suffix_cons _ _

/-- Holding the history of a fixed state, with whatever was logged since before it, is kept by every event. -/
theorem keptByEvents_history_suffix (s : State) : KeptByEvents fun t => s.history <:+ t.history where
  bookkeeping _ _ _ _ _ _ _ ht := ht
  client k op t _ ht := ht.trans (performClient_effect k op t).history_suffix
  renderer op t _ ht := ht.trans (performRenderer_effect op t).history_suffix
  pending _ _ ht := ht

/-- Settles O52: events happen in a running machine alone, where no fault is recorded yet; the rest of a history is a
suffix of it. -/
theorem stepRecordsOneFaultAtMost : Obligations.StepRecordsOneFaultAtMost := by
  unfold Obligations.StepRecordsOneFaultAtMost
  intro s t hs hstep
  obtain ⟨more, happend⟩ := (keptByEvents_history_suffix s).step List.suffix_rfl hstep
  exact ⟨keptByEvents_oneFault.step hs hstep, more, happend.symm⟩

end Sys2Proof.Machine

/-! The status bits without a meaning (10_state.md R22, R69): the renderer writes VR and DE alone, and a client no status
bit. -/

namespace Sys2Proof.Machine

/-- The status byte with VR and DE masked out. -/
def State.otherStatusBits (s : State) : Byte := s.status &&& ~~~(s.cfg.vrMask ||| s.cfg.deMask)

/-- A signal's bits are bits of one of the two masks. -/
theorem Signal.mask_getElem (c : Config) (sig : Signal) {j : Nat} (hj : j < 8) (h : (Signal.mask c sig)[j] = true) :
    c.vrMask[j] = true ∨ c.deMask[j] = true := by
  cases sig with
  | vr => exact .inl h
  | de => exact .inr h

/-- A signal update keeps every bit outside both masks (R69). -/
theorem signalByte_otherBits (c : Config) (sig : Signal) (on : Bool) (b : Byte) :
    signalByte c sig on b &&& ~~~(c.vrMask ||| c.deMask) = b &&& ~~~(c.vrMask ||| c.deMask) := by
  ext j hj
  have hmask := Signal.mask_getElem c sig hj
  cases on with
  | true => simp [signalByte]; grind
  | false => simp [signalByte]; grind

theorem State.status_updateSignal (s : State) (sig : Signal) (on : Bool) :
    (s.updateSignal sig on).status = signalByte s.cfg sig on s.status := by
  show (s.updateSignal sig on).reg .gen s.cfg.idStatus = _
  rw [State.reg_updateSignal, if_pos ⟨rfl, rfl⟩]

/-- The write of another cell leaves the status byte alone. -/
theorem State.status_setCell_of_ne (s : State) {bank : Bank} {id : Byte} (v : Byte)
    (hid : ¬(bank = .gen ∧ id = s.cfg.idStatus)) : (s.setCell bank id v).status = s.status := by
  show (s.setCell bank id v).reg .gen s.cfg.idStatus = _
  rw [State.reg_setCell, if_neg (fun h => hid ⟨h.1.symm, h.2.symm⟩)]
  rfl

theorem ClientEffect.status_eq {k : Nat} {s t : State} (h : ClientEffect k s t) : t.status = s.status := by
  cases h with
  | regWrite bank id v hid hk => exact s.status_setCell_of_ne v hid
  | clients | fault | regRead | readFault | unknownWrite | planeRead | planeWrite | start => rfl

theorem ClientEffect.otherStatusBits_eq {k : Nat} {s t : State} (h : ClientEffect k s t) :
    t.otherStatusBits = s.otherStatusBits := by
  simp only [State.otherStatusBits, h.status_eq, h.sameParameters.1]

theorem RendererEffect.otherStatusBits_eq {s t : State} (h : RendererEffect s t) :
    t.otherStatusBits = s.otherStatusBits := by
  cases h with
  | signal sig on =>
    show (s.updateSignal sig on).status &&& ~~~(s.cfg.vrMask ||| s.cfg.deMask) = _
    rw [State.status_updateSignal, signalByte_otherBits, State.otherStatusBits]
  | own | fault | time | regRead | planeRead | draw | present | sleep | overrun => rfl

/-- Having the other status bits of a fixed state is kept by every event. -/
theorem keptByEvents_otherStatusBits (s : State) :
    KeptByEvents fun t => t.otherStatusBits = s.otherStatusBits where
  bookkeeping _ _ _ _ _ _ _ ht := ht
  client k op t _ ht := (performClient_effect k op t).otherStatusBits_eq.trans ht
  renderer op t _ ht := (performRenderer_effect op t).otherStatusBits_eq.trans ht
  pending _ _ ht := ht

/-- Settles O55: every event keeps them under the masks of its own state, and a step keeps the masks. -/
theorem statusBitsWithoutMeaningNeverChange : Obligations.StatusBitsWithoutMeaningNeverChange := by
  unfold Obligations.StatusBitsWithoutMeaningNeverChange
  intro s t hstep
  have hbits : t.otherStatusBits = s.otherStatusBits := (keptByEvents_otherStatusBits s).step rfl hstep
  have hcfg : t.cfg = s.cfg := (stepKeepsTheParameters s t hstep).1
  simpa only [State.otherStatusBits, hcfg] using hbits

end Sys2Proof.Machine

/-! Plane memory (10_state.md R30, 20_memory.md R62, R71): the one event that changes a plane is a client's write of one
byte, in bounds and logged. -/

namespace Sys2Proof.Machine

theorem planeKey_lt {p : Fin 4} {a n : Nat} (ha : a < n) : planeKey p a < 4 * n := by
  have hp := p.isLt
  unfold planeKey
  omega

/-- A write at an offset that exists lists nothing outside plane memory. -/
theorem PlanesInRange.setPlane {s : State} (hs : PlanesInRange s) {a : Nat} (ha : a < s.cfg.planeBytes) (p : Fin 4)
    (v : Byte) : PlanesInRange (s.setPlane p a v) := by
  intro c hc
  obtain rfl | hc := mem_cellsPut unlistedByte hc
  · exact planeKey_lt ha
  · exact hs c hc

theorem ClientEffect.planesInRange {k : Nat} {s t : State} (h : ClientEffect k s t) (hs : PlanesInRange s) :
    PlanesInRange t := by
  cases h with
  | planeWrite p a v he ha => exact hs.setPlane ha p v
  | clients | fault | regRead | readFault | regWrite | unknownWrite | planeRead | start => exact hs

/-- No event of the renderer writes a plane. -/
theorem RendererEffect.planes_eq {s t : State} (h : RendererEffect s t) : t.planes = s.planes := by
  cases h <;> rfl

theorem RendererEffect.cfg_eq {s t : State} (h : RendererEffect s t) : t.cfg = s.cfg := h.sameParameters.1

theorem RendererEffect.planesInRange {s t : State} (h : RendererEffect s t) (hs : PlanesInRange s) :
    PlanesInRange t := by
  unfold PlanesInRange
  rw [h.planes_eq, h.cfg_eq]
  exact hs

theorem keptByEvents_planesInRange : KeptByEvents PlanesInRange where
  bookkeeping _ _ _ _ _ _ _ hs := hs
  client k op s _ hs := (performClient_effect k op s).planesInRange hs
  renderer op s _ hs := (performRenderer_effect op s).planesInRange hs
  pending _ _ hs := hs

/-- Settles O51: the one event that writes a plane byte has checked its offset. -/
theorem stepKeepsPlanesInRange : Obligations.StepKeepsPlanesInRange := by
  unfold Obligations.StepKeepsPlanesInRange
  intro s t hs hstep
  exact keptByEvents_planesInRange.step hs hstep

theorem lastPlaneWrite_planeWrite (k p : Fin 4) (a b : Nat) (ag : Agent) (v : Byte) (older : List (Agent × Event)) :
    lastPlaneWrite k a ((ag, .planeWrite p b v) :: older)
      = if p = k ∧ b = a then some v else lastPlaneWrite k a older := rfl

/-- A byte read as it stands, and logged, is the latest one written. -/
theorem PlanesExplained.planeRead {base : Memory} {s : State} (hs : PlanesExplained base s) (ag : Agent) (p : Fin 4)
    (a : Nat) : PlanesExplained base (s.log ag (.planeRead p a (s.plane p a))) := by
  obtain ⟨hbytes, hreads⟩ := hs
  exact ⟨hbytes, hbytes p a, hreads⟩

/-- A byte written and logged becomes the latest one of its cell. -/
theorem PlanesExplained.planeWrite {base : Memory} {s : State} (hs : PlanesExplained base s) (ag : Agent) (p : Fin 4)
    (a : Nat) (v : Byte) : PlanesExplained base ((s.setPlane p a v).log ag (.planeWrite p a v)) := by
  obtain ⟨hbytes, hreads⟩ := hs
  refine ⟨fun k b => ?_, hreads⟩
  rw [State.log_history, lastPlaneWrite_planeWrite, State.log_plane, State.plane_setPlane]
  by_cases hcell : k = p ∧ b = a
  · rw [if_pos hcell, if_pos ⟨hcell.1.symm, hcell.2.symm⟩, Option.getD_some]
  · rw [if_neg hcell, if_neg fun h => hcell ⟨h.1.symm, h.2.symm⟩]
    exact hbytes k b

theorem ClientEffect.planesExplained {base : Memory} {k : Nat} {s t : State} (h : ClientEffect k s t)
    (hs : PlanesExplained base s) : PlanesExplained base t := by
  cases h with
  | planeRead p a cs hl => exact hs.planeRead (.client k) p a
  | planeWrite p a v he ha =>
    have hread : PlanesExplained base (s.readReg (.client k) .seq s.cfg.idMapMask) := hs
    exact hread.planeWrite (.client k) p a v
  | clients | fault | regRead | readFault | regWrite | unknownWrite | start => exact hs

theorem RendererEffect.planesExplained {base : Memory} {s t : State} (h : RendererEffect s t)
    (hs : PlanesExplained base s) : PlanesExplained base t := by
  cases h with
  | planeRead p a r ht0 => exact hs.planeRead .renderer p a
  | own | fault | time | signal | regRead | draw | present | sleep | overrun => exact hs

theorem keptByEvents_planesExplained (base : Memory) : KeptByEvents (PlanesExplained base) where
  bookkeeping _ _ _ _ _ _ _ hs := hs
  client k op s _ hs := (performClient_effect k op s).planesExplained hs
  renderer op s _ hs := (performRenderer_effect op s).planesExplained hs
  pending _ _ hs := hs

/-- Settles O53: an event that reads a plane byte logs the byte as it stands, one that writes it logs what it writes. -/
theorem planeReadsReturnTheLatestWrite : Obligations.PlaneReadsReturnTheLatestWrite := by
  unfold Obligations.PlaneReadsReturnTheLatestWrite
  intro base s t hs hstep
  exact (keptByEvents_planesExplained base).step hs hstep

end Sys2Proof.Machine

/-! The known register cells (10_state.md R20, R21, R69, 20_memory.md R71): a cell changes with a SET_REG of a known code or
a signal update, each logged; a SET_REG of an unknown code is logged and speaks of no known cell. -/

namespace Sys2Proof.Machine

theorem cellAfter_regWrite (c : Config) (base : Memory) (bank bank' : Bank) (id id' v : Byte) (ag : Agent)
    (older : List (Agent × Event)) :
    cellAfter c base bank id ((ag, .regWrite bank' id' v) :: older)
      = if bank' = bank ∧ id' = id then v else cellAfter c base bank id older := rfl

theorem cellAfter_statusUpdate (c : Config) (base : Memory) (bank : Bank) (id : Byte) (sig : Signal) (on : Bool)
    (ag : Agent) (older : List (Agent × Event)) :
    cellAfter c base bank id ((ag, .statusUpdate sig on) :: older)
      = if bank = .gen ∧ id = c.idStatus then signalByte c sig on (cellAfter c base bank id older)
        else cellAfter c base bank id older := rfl

/-- A read logged with a byte that is the cell's, if the code is known, is explained. -/
theorem RegsExplained.regRead {base : Memory} {s t : State} {ag : Agent} {bank : Bank} {id v : Byte}
    (hs : RegsExplained base s) (hv : s.knows bank id = true → v = s.reg bank id) (hcfg : t.cfg = s.cfg)
    (hregs : t.regs = s.regs) (hhist : t.history = (ag, .regRead bank id v) :: s.history) : RegsExplained base t := by
  obtain ⟨hcells, hreads⟩ := hs
  simp only [RegsExplained, State.knows, State.reg, hcfg, hregs, hhist]
  exact ⟨hcells, fun hk => (hv hk).trans (hcells bank id hk), hreads⟩

/-- A register read as it stands, and logged, is explained. -/
theorem RegsExplained.readReg {base : Memory} {s : State} (hs : RegsExplained base s) (ag : Agent) (bank : Bank)
    (id : Byte) : RegsExplained base (s.readReg ag bank id) :=
  hs.regRead (fun _ => rfl) rfl rfl rfl

/-- A byte written to a cell, and logged, is the cell's from then on. -/
theorem RegsExplained.regWrite {base : Memory} {s : State} (hs : RegsExplained base s) (ag : Agent) (bank : Bank)
    (id v : Byte) : RegsExplained base ((s.setCell bank id v).log ag (.regWrite bank id v)) := by
  obtain ⟨hcells, hreads⟩ := hs
  refine ⟨fun bank' id' hk => ?_, hreads⟩
  rw [State.log_history, cellAfter_regWrite, State.log_reg, State.reg_setCell]
  by_cases hcell : bank' = bank ∧ id' = id
  · rw [if_pos hcell, if_pos ⟨hcell.1.symm, hcell.2.symm⟩]
  · rw [if_neg hcell, if_neg fun h => hcell ⟨h.1.symm, h.2.symm⟩]
    exact hcells bank' id' hk

/-- A write to an unknown code, logged alone, speaks of no known cell. -/
theorem RegsExplained.unknownWrite {base : Memory} {s : State} (hs : RegsExplained base s) (ag : Agent) {bank : Bank}
    {id : Byte} (hunknown : s.knows bank id = false) (v : Byte) :
    RegsExplained base (s.log ag (.regWrite bank id v)) := by
  obtain ⟨hcells, hreads⟩ := hs
  refine ⟨fun bank' id' hk => ?_, hreads⟩
  have hother : ¬(bank = bank' ∧ id = id') := by
    rintro ⟨rfl, rfl⟩
    exact absurd (hunknown.symm.trans hk) (by decide)
  rw [State.log_history, cellAfter_regWrite, if_neg hother]
  exact hcells bank' id' hk

/-- A signal update changes the status byte as the history says (R69). -/
theorem RegsExplained.updateSignal {base : Memory} {s : State} (hs : RegsExplained base s) (sig : Signal) (on : Bool) :
    RegsExplained base (s.updateSignal sig on) := by
  obtain ⟨hcells, hreads⟩ := hs
  refine ⟨fun bank id hk => ?_, hreads⟩
  have hcell : s.reg bank id = cellAfter s.cfg base bank id s.history := hcells bank id hk
  show _ = cellAfter s.cfg base bank id ((.renderer, .statusUpdate sig on) :: s.history)
  rw [cellAfter_statusUpdate, State.reg_updateSignal, ← hcell]
  split_ifs with hstatus
  · obtain ⟨rfl, rfl⟩ := hstatus
    rfl
  · rfl

theorem ClientEffect.regsExplained {base : Memory} {k : Nat} {s t : State} (h : ClientEffect k s t)
    (hs : RegsExplained base s) : RegsExplained base t := by
  cases h with
  | regRead bank id v cs d hl hv => exact hs.regRead hv rfl rfl rfl
  | readFault bank id f => exact hs.readReg (.client k) bank id
  | regWrite bank id v hid hk => exact hs.regWrite (.client k) bank id v
  | unknownWrite bank id v hk => exact hs.unknownWrite (.client k) hk v
  | planeWrite p a v he ha => exact hs.readReg (.client k) .seq s.cfg.idMapMask
  | clients | fault | planeRead | start => exact hs

theorem RendererEffect.regsExplained {base : Memory} {s t : State} (h : RendererEffect s t)
    (hs : RegsExplained base s) : RegsExplained base t := by
  cases h with
  | signal sig on => exact hs.updateSignal sig on
  | regRead bank id r ht0 => exact hs.regRead (fun _ => rfl) rfl rfl rfl
  | own | fault | time | planeRead | draw | present | sleep | overrun => exact hs

theorem keptByEvents_regsExplained (base : Memory) : KeptByEvents (RegsExplained base) where
  bookkeeping _ _ _ _ _ _ _ hs := hs
  client k op s _ hs := (performClient_effect k op s).regsExplained hs
  renderer op s _ hs := (performRenderer_effect op s).regsExplained hs
  pending _ _ hs := hs

/-- Settles O54: an event that reads a known cell logs its byte as it stands, one that changes it logs the change. -/
theorem registerReadsReturnTheLatestWrite : Obligations.RegisterReadsReturnTheLatestWrite := by
  unfold Obligations.RegisterReadsReturnTheLatestWrite
  intro base s t hs hstep
  exact (keptByEvents_regsExplained base).step hs hstep

end Sys2Proof.Machine

/-! The next turn and what it begins with (20_memory.md R67, R77): the schedule's next agent, if it has an enabled
step. -/

namespace Sys2Proof.Machine

theorem nextTurn_of_sched {s : State} {tn : Turn} {ts : List Turn} (hsched : s.sched = tn :: ts)
    (hen : s.agentEnabled tn.agent = true) : s.nextTurn = .turn tn { s with sched := ts } := by
  simp [State.nextTurn, hsched, hen]

/-- A running machine performs the turn chosen, under the turn's grant. -/
theorem step_of_nextTurn {s u : State} {tn : Turn} (hrun : s.running = true) (hnext : s.nextTurn = .turn tn u) :
    step s = runFetched (fetch tn.agent { u with grant := tn.grant }) := by
  obtain ⟨hfault, hphase⟩ := s.running_iff.1 hrun
  simp [step, hfault, hphase, hnext]

/-- Settles O13: a turn of the schedule is taken whenever its agent has an enabled step. -/
theorem everyEnabledAgentMayMoveNext : Obligations.EveryEnabledAgentMayMoveNext := by
  unfold Obligations.EveryEnabledAgentMayMoveNext
  intro s ag g ts hrun hen hsched
  have hnext : s.nextTurn = .turn ⟨ag, g⟩ { s with sched := ts } := nextTurn_of_sched hsched hen
  exact ⟨by simp [State.mover, hnext], step_of_nextTurn hrun hnext⟩

theorem agentEnabled_client_of_pending {s : State} {k : Nat} {c : Client} (hc : s.clients[k]? = some c)
    (hblocked : c.blocked = false) (hops : c.ops ≠ []) : s.agentEnabled (.client k) = true := by
  simp [State.agentEnabled, hc, Client.enabled, hblocked, hops]

theorem agentEnabled_renderer_of_pending {s : State} (hans : s.answered = true) (hops : s.renderer.ops ≠ []) :
    s.agentEnabled .renderer = true := by
  simp [State.agentEnabled, State.rendererEnabled, hans, hops]

theorem fetchClient_of_pending {s : State} {k : Nat} {c : Client} (hc : s.clients[k]? = some c) (hops : c.ops ≠ []) :
    fetchClient k s = .took (runClient k c.ops s.grant s) := by
  simp [fetchClient, hc, hops]

theorem fetchRenderer_of_pending {s : State} (hops : s.renderer.ops ≠ []) :
    fetchRenderer s = .took (runRenderer s.renderer.ops s.grant s) := by
  simp [fetchRenderer, hops]

/-- Settles O8: an agent with pending events has an enabled step, and its turn fetches those. -/
theorem stepResumesPendingEvents : Obligations.StepResumesPendingEvents := by
  unfold Obligations.StepResumesPendingEvents
  constructor
  · intro s k g ts c hrun hsched hc hblocked hops
    have hen : s.agentEnabled (.client k) = true := agentEnabled_client_of_pending hc hblocked hops
    rw [(everyEnabledAgentMayMoveNext s _ g ts hrun hen hsched).2]
    exact congrArg runFetched (fetchClient_of_pending (s := { s with sched := ts, grant := g }) hc hops)
  · intro s g ts hrun hsched hans hops
    have hen : s.agentEnabled .renderer = true := agentEnabled_renderer_of_pending hans hops
    rw [(everyEnabledAgentMayMoveNext s _ g ts hrun hen hsched).2]
    exact congrArg runFetched (fetchRenderer_of_pending (s := { s with sched := ts, grant := g }) hops)

end Sys2Proof.Machine

/-! Orders of unordered events (20_memory.md R67, R68): the number of an order is read off the place of its first
event. -/

namespace Sys2Proof.Machine

/-- An order of `x :: xs` numbered by the place of `x` and by an order of `xs`. -/
theorem permute_cons {α : Type} {x : α} {xs : List α} {place : Nat} (hplace : place ≤ xs.length) (m : Nat) :
    permute (place + (xs.length + 1) * m) (x :: xs) = (permute m xs).insertIdx place x := by
  have hlt : place < xs.length + 1 := Nat.lt_succ_of_le hplace
  rw [permute, Nat.add_mul_mod_self_left, Nat.mod_eq_of_lt hlt, Nat.add_mul_div_left _ _ (Nat.succ_pos _),
    Nat.div_eq_of_lt hlt, Nat.zero_add]

/-- Every order of a list's events has a number. -/
theorem exists_permute_eq {α : Type} {l l' : List α} (h : l'.Perm l) : ∃ n, permute n l = l' := by
  induction l generalizing l' with
  | nil => exact ⟨0, h.eq_nil.symm⟩
  | cons x xs ih =>
    obtain ⟨before, after, rfl⟩ := List.append_of_mem (h.mem_iff.2 List.mem_cons_self)
    have hrest : (before ++ after).Perm xs := (List.perm_middle.symm.trans h).cons_inv
    obtain ⟨m, hm⟩ := ih hrest
    have hplace : before.length ≤ xs.length := by
      rw [← hrest.length_eq, List.length_append]
      exact Nat.le_add_right _ _
    refine ⟨before.length + (xs.length + 1) * m, ?_⟩
    rw [permute_cons hplace, hm]
    exact List.modifyTailIdx_add (List.cons x) 0 before after

/-- Settles O14: by the two lemmas on `permute`. -/
theorem everyOrderOfEventsIsAdmitted : Obligations.EveryOrderOfEventsIsAdmitted := by
  unfold Obligations.EveryOrderOfEventsIsAdmitted
  exact fun _ l n => ⟨permute_perm n l, fun _ h => exists_permute_eq h⟩

end Sys2Proof.Machine

/-! A command cut off and taken up again (20_memory.md R67, R77): no event of a client reads or writes what is kept
pending. -/

namespace Sys2Proof.Machine

theorem modifyClient_modifyClient (k : Nat) (f g : Client → Client) (s : State) :
    (s.modifyClient k f).modifyClient k g = s.modifyClient k (g ∘ f) := by
  simp [State.modifyClient, List.modify_modify_eq]

/-- What is kept later replaces what was kept before. -/
theorem keepClient_keepClient (k : Nat) (xs ys : List ClientOp) (s : State) :
    keepClient k ys (keepClient k xs s) = keepClient k ys s := by
  simp only [keepClient, modifyClient_modifyClient]
  rfl

theorem clients_keepClient (k : Nat) (xs : List ClientOp) (s : State) :
    (keepClient k xs s).clients[k]? = s.clients[k]?.map fun c => { c with ops := xs } := by
  simp [keepClient]

/-- The client has pending what was kept last. -/
theorem ops_of_keepClient {k : Nat} {xs : List ClientOp} {s : State} {c : Client}
    (hc : (keepClient k xs s).clients[k]? = some c) : c.ops = xs := by
  rw [clients_keepClient] at hc
  obtain ⟨c₀, -, rfl⟩ := Option.map_eq_some_iff.1 hc
  rfl

theorem latchByte_keepClient (k : Nat) (xs : List ClientOp) (slot : Fin 4) (v : Byte) (s : State) :
    (keepClient k xs s).latchByte k slot v = keepClient k xs (s.latchByte k slot v) := by
  simp only [keepClient, State.latchByte, modifyClient_modifyClient]
  rfl

theorem doRespond_keepClient (k : Nat) (xs : List ClientOp) (s : State) :
    doRespond k (keepClient k xs s) = keepClient k xs (doRespond k s) := by
  simp only [keepClient, doRespond, modifyClient_modifyClient]
  rfl

theorem startFrames_keepClient (k : Nat) (xs : List ClientOp) (mode : Byte) (s : State) :
    (keepClient k xs s).startFrames k mode = keepClient k xs (s.startFrames k mode) := by
  simp only [keepClient, State.startFrames]
  simp [State.modifyClient, List.modify_modify_eq]
  rfl

theorem clientPlanar_keepClient (k : Nat) (xs : List ClientOp) (s : State) :
    (keepClient k xs s).clientPlanar k = s.clientPlanar k := by
  unfold State.clientPlanar
  rw [clients_keepClient]
  cases s.clients[k]? <;> rfl

theorem readZeroPitch_keepClient (k : Nat) (xs : List ClientOp) (s : State) :
    (keepClient k xs s).readZeroPitch k = s.readZeroPitch k := by
  unfold State.readZeroPitch
  rw [clients_keepClient]
  cases s.clients[k]? <;> rfl

theorem drawByte_keepClient (k : Nat) (xs : List ClientOp) (s : State) :
    (keepClient k xs s).drawByte = (s.drawByte.1, keepClient k xs s.drawByte.2) := by
  have hdraws : (keepClient k xs s).draws = s.draws := rfl
  unfold State.drawByte
  rw [hdraws]
  cases s.draws.bytes <;> rfl

/-- Keeping pending events commutes with every event of a client. -/
theorem performClient_keepClient (k : Nat) (op : ClientOp) (xs : List ClientOp) (s : State) :
    performClient k op (keepClient k xs s) = keepClient k xs (performClient k op s) := by
  cases op with
  | getReg bank id =>
    simp only [performClient, doGetReg, drawByte_keepClient, apply_ite (keepClient k xs), ← latchByte_keepClient]
    rfl
  | setReg bank id v =>
    simp only [performClient, doSetReg, apply_ite (keepClient k xs)]
    rfl
  | readPlane p a =>
    simp only [performClient, doReadPlane, State.memRead_eq, apply_ite (keepClient k xs), ← latchByte_keepClient]
    rfl
  | writePlane p a v =>
    simp only [performClient, doWritePlane, State.memWrite_eq, apply_ite (keepClient k xs)]
    rfl
  | readMode slot bank id =>
    simp only [performClient, doReadMode, ← latchByte_keepClient]
    rfl
  | checkPlanar a =>
    simp only [performClient, doCheckPlanar, clientPlanar_keepClient, apply_ite (keepClient k xs)]
    rfl
  | respond => exact doRespond_keepClient k xs s
  | checkPhase =>
    simp only [performClient, doCheckPhase, apply_ite (keepClient k xs)]
    rfl
  | checkMode mode =>
    simp only [performClient, doCheckMode, apply_ite (keepClient k xs)]
    rfl
  | readPitch =>
    simp only [performClient, doReadPitch, ← latchByte_keepClient]
    rfl
  | start mode =>
    simp only [performClient, doStart, readZeroPitch_keepClient, apply_ite (keepClient k xs),
      ← startFrames_keepClient]
    rfl
  | raise f => rfl

/-- What was pending before makes no difference to performing events. -/
theorem runClient_keepClient (k : Nat) (ops xs : List ClientOp) (g : Option Nat) (s : State) :
    runClient k ops g (keepClient k xs s) = runClient k ops g s := by
  induction ops generalizing g s with
  | nil => exact keepClient_keepClient k xs [] s
  | cons op rest ih =>
    unfold runClient at ih
    have hrunning : (keepClient k xs s).running = s.running := rfl
    simp only [runClient, runEvents, hrunning, performClient_keepClient, keepClient_keepClient, ih]

@[simp] theorem runClient_nil (k : Nat) (g : Option Nat) (s : State) : runClient k [] g s = keepClient k [] s := rfl

/-- A halted machine drops a command's events. -/
theorem runClient_halted (k : Nat) (ops : List ClientOp) (g : Option Nat) {s : State} (hhalted : s.running = false) :
    runClient k ops g s = keepClient k [] s := by
  cases ops with
  | nil => rfl
  | cons op rest => exact runEvents_halted _ _ _ _ op rest g hhalted

/-- Where the grant is used up, the events left are kept. -/
theorem runClient_cut (k : Nat) (op : ClientOp) (rest : List ClientOp) {s : State} (hrun : s.running = true) :
    runClient k (op :: rest) (some 0) s = keepClient k (op :: rest) s := by
  simp [runClient, runEvents, hrun]

theorem runClient_cons (k : Nat) (op : ClientOp) (rest : List ClientOp) {g : Option Nat} {s : State}
    (hrun : s.running = true) (hgrant : g ≠ some 0) :
    runClient k (op :: rest) g s = runClient k rest (g.map (· - 1)) (performClient k op s) :=
  runEvents_cons _ _ _ _ op rest g hrun hgrant rfl

/-- Taking up what a command cut off has left pending. -/
theorem runClient_resume (k : Nat) (ops : List ClientOp) (g : Nat) (s : State) {c : Client}
    (hc : (runClient k ops (some g) s).clients[k]? = some c) :
    runClient k c.ops none (runClient k ops (some g) s) = runClient k ops none s := by
  induction ops generalizing g s with
  | nil =>
    rw [runClient_nil] at hc ⊢
    rw [ops_of_keepClient hc]
    exact keepClient_keepClient k [] [] s
  | cons op rest ih =>
    cases hrun : s.running with
    | false =>
      rw [runClient_halted k _ _ hrun] at hc ⊢
      rw [runClient_halted k _ _ hrun, ops_of_keepClient hc]
      exact keepClient_keepClient k [] [] s
    | true =>
      cases g with
      | zero =>
        rw [runClient_cut k op rest hrun] at hc ⊢
        rw [ops_of_keepClient hc, runClient_keepClient]
      | succ g =>
        rw [runClient_cons k op rest hrun (by simp)] at hc ⊢
        rw [runClient_cons k op rest hrun (by simp)]
        exact ih g (performClient k op s) hc

/-- Settles O15: by induction on the command's events. -/
theorem interruptedCommandResumesToTheSameEnd : Obligations.InterruptedCommandResumesToTheSameEnd := by
  unfold Obligations.InterruptedCommandResumesToTheSameEnd
  intro s k g c c' ops _ _ hc'
  exact runClient_resume k ops g s hc'

end Sys2Proof.Machine

/-! A signal update (20_memory.md R69, 45_status_signals.md R200 to R203): one bit of the status byte. -/

namespace Sys2Proof.Machine

theorem signalByte_and_not_mask (c : Config) (sig : Signal) (on : Bool) (b : Byte) :
    signalByte c sig on b &&& ~~~Signal.mask c sig = b &&& ~~~Signal.mask c sig := by
  cases on with
  | true =>
    show (b ||| Signal.mask c sig) &&& ~~~Signal.mask c sig = _
    ext j hj
    simp [Bool.and_or_distrib_right]
  | false =>
    show b &&& ~~~Signal.mask c sig &&& ~~~Signal.mask c sig = _
    rw [BitVec.and_assoc, BitVec.and_self]

theorem signalByte_and_mask (c : Config) (sig : Signal) (on : Bool) (b : Byte) :
    signalByte c sig on b &&& Signal.mask c sig = if on then Signal.mask c sig else 0 := by
  cases on with
  | true =>
    show (b ||| Signal.mask c sig) &&& Signal.mask c sig = Signal.mask c sig
    ext j hj
    simpa using Or.inr
  | false =>
    show b &&& ~~~Signal.mask c sig &&& Signal.mask c sig = 0
    rw [BitVec.and_assoc]
    simp

theorem State.updateSignal_sameRegsBut (s : State) (sig : Signal) (on : Bool) :
    SameRegsBut .gen s.cfg.idStatus s (s.updateSignal sig on) := by
  intro bank id hother
  rw [State.reg_updateSignal, if_neg hother]

/-- Settles O34: the status byte becomes `signalByte` of itself. -/
theorem signalUpdateChangesOneBit : Obligations.SignalUpdateChangesOneBit := by
  unfold Obligations.SignalUpdateChangesOneBit
  intro s sig on
  rw [State.status_updateSignal]
  exact ⟨signalByte_and_not_mask _ _ _ _, signalByte_and_mask _ _ _ _, s.updateSignal_sameRegsBut sig on, rfl⟩

end Sys2Proof.Machine

/-! A command whose first event is a fault (60_exceptions.md R230): nothing of it takes place. -/

namespace Sys2Proof.Machine

/-- What a client's fault leaves, its command dropped. -/
theorem faultsWith_raise (s : State) (f : FaultRecord) :
    FaultsWith f [] s (keepClient s.issuer [] (s.raise (.client s.issuer) f)) := by
  refine ⟨rfl, fun j hj => ?_, fun c hc => ?_⟩
  · show (s.clients.modify s.issuer _)[j]? = _
    rw [List.getElem?_modify_ne _ _ hj.symm]
  · refine ⟨{ c with ops := [] }, ?_, rfl, rfl, rfl, rfl⟩
    rw [clients_keepClient, State.raise_clients, hc, Option.map_some]

theorem grant_ne_zero_of_covers {s : State} (hcovers : s.covers 1 = true) : s.grant ≠ some 0 := by
  obtain ⟨-, hnone | ⟨g, hg, hle⟩⟩ := (s.covers_iff 1).1 hcovers
  · simp [hnone]
  · rw [hg, Ne, Option.some.injEq]
    omega

/-- A turn of at least one event performs a command up to the fault its first event raises. -/
theorem issueCommand_of_raise {s : State} {op : ClientOp} {f : FaultRecord} (rest : List ClientOp)
    (hcovers : s.covers 1 = true) (hop : performClient s.issuer op s = s.raise (.client s.issuer) f) :
    issueCommand (op :: rest, s) s = .next (keepClient s.issuer [] (s.raise (.client s.issuer) f)) := by
  have hrun : s.running = true := ((s.covers_iff 1).1 hcovers).1
  obtain ⟨hfault, hphase⟩ := s.running_iff.1 hrun
  rw [issueCommand, if_neg (by simp [hfault]), if_neg hphase,
    runClient_cons _ op rest hrun (grant_ne_zero_of_covers hcovers), hop, runClient_halted _ _ _ (s.raise_running _ _)]

theorem issueCommand_faultsWith {s : State} {op : ClientOp} {f : FaultRecord} (rest : List ClientOp)
    (hcovers : s.covers 1 = true) (hop : performClient s.issuer op s = s.raise (.client s.issuer) f) :
    ∃ t, issueCommand (op :: rest, s) s = .next t ∧ FaultsWith f [] s t :=
  ⟨_, issueCommand_of_raise rest hcovers hop, faultsWith_raise s f⟩

theorem performClient_readPlane_outOfBounds {s : State} {a : Nat} (ha : s.cfg.planeBytes ≤ a) (k : Nat) (p : Fin 4) :
    performClient k (.readPlane p a) s = s.raise (.client k) (.boundsFault a) := by
  rw [performClient, doReadPlane, State.memRead_eq, if_neg (Nat.not_lt.2 ha)]

theorem planWriteByte_outOfBounds {s : State} {a : Nat} (ha : s.cfg.planeBytes ≤ a) (v : Byte) :
    planWriteByte a v s = ([.raise (.boundsFault a)], s) := by
  have hout : ¬s.inBounds a = true := fun h => Nat.not_lt.2 ha ((s.inBounds_iff a).1 h)
  rw [planWriteByte, if_neg hout]

/-- Settles O24: the first event of either command checks the offset. -/
theorem outOfBoundsByteAccessFaults : Obligations.OutOfBoundsByteAccessFaults := by
  unfold Obligations.OutOfBoundsByteAccessFaults
  intro s k a v hcovers ha
  constructor
  · exact issueCommand_faultsWith _ hcovers (performClient_readPlane_outOfBounds ha _ k)
  · show ∃ t, issueCommand (planWriteByte a.toNat v s) s = .next t ∧ _
    rw [planWriteByte_outOfBounds ha]
    exact issueCommand_faultsWith [] hcovers rfl

end Sys2Proof.Machine

/-! Who writes what (20_memory.md R79, R80): the events an instruction issues, and the storage each of them can write. -/

namespace Sys2Proof.Machine

/-- The events of a client command, in the state that has drawn their order; a renderer step has none. -/
def commandPlan (i : Instr) (s : State) : List ClientOp × State :=
  match i with
  | .getReg bank id => ([.getReg bank id, .respond], s)
  | .setReg bank id v => ([.setReg bank id v], s)
  | .readPlane p a => ([.readPlane p a.toNat, .respond], s)
  | .writeByte a v => planWriteByte a.toNat v s
  | .writeChunk a bytes => planChunk a.toNat bytes s
  | .startRendering mode => ([.checkPhase, .checkMode mode, .readPitch, .start mode], s)
  | .writeFull _ => ([.raise (.refused "WRITE_FULL")], s)
  | .frameStart | .lineBegin | .column | .lineEnd | .frameEnd | .poll | .pace => ([], s)

/-- The events of a renderer step, in the state that has drawn their order; a client command has none. -/
def stepPlan (i : Instr) (s : State) : List RendererOp × State :=
  match i with
  | .frameStart => planFrameStart s
  | .lineBegin => ([.signal .de false, .enterColumns], s)
  | .column => planColumn s
  | .lineEnd => ([.advanceRow, .signal .de true, .nextLine], s)
  | .frameEnd => ([.signal .vr true, .present, .awaitHost, .enter .poll], s)
  | .poll => ([.poll], s)
  | .pace => ([.pace, .awaitHost, .enter .frameStart], s)
  | .getReg _ _ | .setReg _ _ _ | .readPlane _ _ | .writeByte _ _ | .writeChunk _ _ | .startRendering _ | .writeFull _ =>
    ([], s)

theorem exec_command {i : Instr} {ws : List Word} (henc : encode i = .words ws) (s : State) :
    exec i s = issueCommand (commandPlan i s) s := by
  cases i with
  | getReg | setReg | readPlane | writeByte | writeChunk | startRendering | writeFull => rfl
  | frameStart | lineBegin | column | lineEnd | frameEnd | poll | pace => cases henc

theorem exec_step {i : Instr} {p : BitVec 4} (henc : encode i = .phase p) (s : State) :
    exec i s = issueStep (stepPlan i s) s := by
  cases i with
  | getReg | setReg | readPlane | writeByte | writeChunk | startRendering | writeFull => cases henc
  | frameStart | lineBegin | column | lineEnd | frameEnd | poll | pace => rfl

theorem commandPlan_draws (i : Instr) (s : State) :
    (commandPlan i s).2 = { s with draws := (commandPlan i s).2.draws } := by
  cases i with
  | writeByte a v => exact planWriteByte_draws _ _ s
  | writeChunk a bytes => exact planChunk_draws _ _ s
  | _ => rfl

theorem stepPlan_draws (i : Instr) (s : State) : (stepPlan i s).2 = { s with draws := (stepPlan i s).2.draws } := by
  cases i with
  | frameStart => exact planFrameStart_draws s
  | column => exact planColumn_draws s
  | _ => rfl

theorem issueCommand_next {plan : List ClientOp × State} {s t : State} (ht : issueCommand plan s = .next t) :
    t = runClient s.issuer plan.1 s.grant plan.2 := by
  unfold issueCommand at ht
  split_ifs at ht
  cases ht
  rfl

theorem issueStep_next {plan : List RendererOp × State} {s t : State} (ht : issueStep plan s = .next t) :
    t = runRenderer plan.1 s.grant plan.2 := by
  unfold issueStep at ht
  split_ifs at ht
  cases ht
  rfl

/-- The event can write a plane byte. -/
def ClientOp.writesPlane : ClientOp → Bool
  | .writePlane _ _ _ => true
  | _ => false

/-- The event can write a register cell. -/
def ClientOp.writesCell : ClientOp → Bool
  | .setReg _ _ _ => true
  | _ => false

/-- Planes change with a plane write alone, register cells with a register write alone. -/
theorem performClient_storage (k : Nat) (op : ClientOp) (s : State) :
    (op.writesPlane = false → (performClient k op s).planes = s.planes)
      ∧ (op.writesCell = false → (performClient k op s).regs = s.regs) := by
  cases op with
  | getReg bank id =>
    simp only [performClient, doGetReg]
    split_ifs
    · exact ⟨fun _ => rfl, fun _ => rfl⟩
    · rw [drawByte_draws]
      exact ⟨fun _ => rfl, fun _ => rfl⟩
  | setReg bank id v =>
    simp only [performClient, doSetReg]
    split_ifs <;> exact ⟨fun _ => rfl, nofun⟩
  | readPlane p a =>
    simp only [performClient, doReadPlane, State.memRead_eq]
    split_ifs <;> exact ⟨fun _ => rfl, fun _ => rfl⟩
  | writePlane p a v =>
    simp only [performClient, doWritePlane, State.memWrite_eq]
    split_ifs <;> exact ⟨nofun, fun _ => rfl⟩
  | checkPlanar a =>
    simp only [performClient, doCheckPlanar]
    split_ifs <;> exact ⟨fun _ => rfl, fun _ => rfl⟩
  | checkPhase =>
    simp only [performClient, doCheckPhase]
    split_ifs <;> exact ⟨fun _ => rfl, fun _ => rfl⟩
  | checkMode mode =>
    simp only [performClient, doCheckMode]
    split_ifs <;> exact ⟨fun _ => rfl, fun _ => rfl⟩
  | start mode =>
    simp only [performClient, doStart]
    split_ifs <;> exact ⟨fun _ => rfl, fun _ => rfl⟩
  | readMode | respond | readPitch | raise => exact ⟨fun _ => rfl, fun _ => rfl⟩

/-- What each event of a list and the keeping of pending events preserve, performing the list preserves. -/
theorem runEvents_induct_mem {α : Type} {can : α → State → Bool} {perform : α → State → State}
    {keep : List α → State → State} (P : State → Prop) {ops : List α}
    (hperform : ∀ op ∈ ops, ∀ s, P s → P (perform op s)) (hkeep : ∀ ops s, P s → P (keep ops s)) (g : Option Nat)
    {s : State} (hs : P s) : P (runEvents can perform keep ops g s) := by
  induction ops generalizing g s with
  | nil => exact hkeep _ _ hs
  | cons op rest ih =>
    have hrest : ∀ op ∈ rest, ∀ s, P s → P (perform op s) := fun op hop => hperform op (List.mem_cons_of_mem _ hop)
    unfold runEvents
    split_ifs
    · exact hkeep _ _ hs
    · exact ih hrest _ (hperform op List.mem_cons_self s hs)
    · exact hkeep _ _ hs
    · exact hkeep _ _ hs

theorem runClient_planes {ops : List ClientOp} (hops : ∀ op ∈ ops, op.writesPlane = false) (k : Nat) (g : Option Nat)
    (s : State) : (runClient k ops g s).planes = s.planes :=
  runEvents_induct_mem (keep := keepClient k) (fun t => t.planes = s.planes)
    (fun op hop t ht => ((performClient_storage k op t).1 (hops op hop)).trans ht) (fun _ _ ht => ht) g rfl

theorem runClient_regs {ops : List ClientOp} (hops : ∀ op ∈ ops, op.writesCell = false) (k : Nat) (g : Option Nat)
    (s : State) : (runClient k ops g s).regs = s.regs :=
  runEvents_induct_mem (keep := keepClient k) (fun t => t.regs = s.regs)
    (fun op hop t ht => ((performClient_storage k op t).2 (hops op hop)).trans ht) (fun _ _ ht => ht) g rfl

/-! The events of a plane write read and check the mode registers and write planes; none writes a cell. -/

theorem modeEvents_writesCell {c : Config} {order a : Nat} {op : ClientOp} (hop : op ∈ modeEvents c order a) :
    op.writesCell = false := by
  simp only [modeEvents, List.mem_append, (permute_perm _ _).mem_iff, List.mem_cons, List.not_mem_nil, or_false] at hop
  obtain (rfl | rfl | rfl) | rfl := hop <;> rfl

theorem planeEvents_writesCell {order a : Nat} {v : Byte} {op : ClientOp} (hop : op ∈ planeEvents order a v) :
    op.writesCell = false := by
  rw [planeEvents, (permute_perm _ _).mem_iff] at hop
  obtain ⟨p, -, rfl⟩ := List.mem_map.1 hop
  rfl

theorem planWriteByte_writesCell {a : Nat} {v : Byte} {s : State} {op : ClientOp}
    (hop : op ∈ (planWriteByte a v s).1) : op.writesCell = false := by
  unfold planWriteByte at hop
  split_ifs at hop
  · exact planeEvents_writesCell hop
  · obtain hop | hop := List.mem_append.1 hop
    · exact modeEvents_writesCell hop
    · exact planeEvents_writesCell hop
  · rw [List.mem_singleton.1 hop]
    rfl

theorem planBytes_writesCell {a : Nat} {bytes : List Byte} {s : State} {op : ClientOp}
    (hop : op ∈ (planBytes a bytes s).1) : op.writesCell = false := by
  induction bytes generalizing a s with
  | nil => cases hop
  | cons v vs ih =>
    obtain hop | hop := List.mem_append.1 hop
    · exact planWriteByte_writesCell hop
    · exact ih hop

theorem planChunk_writesCell {a : Nat} {bytes : List Byte} {s : State} {op : ClientOp}
    (hop : op ∈ (planChunk a bytes s).1) : op.writesCell = false := by
  unfold planChunk at hop
  split_ifs at hop
  · cases hop
  · exact planBytes_writesCell hop
  · rw [List.mem_singleton.1 hop]
    rfl

/-- SET_REG is the one command that can write a register cell. -/
theorem commandPlan_writesCell {i : Instr} (hset : ∀ bank id v, i ≠ .setReg bank id v) (s : State) :
    ∀ op ∈ (commandPlan i s).1, op.writesCell = false := by
  cases i with
  | setReg bank id v => exact absurd rfl (hset bank id v)
  | writeByte a v => exact fun _ => planWriteByte_writesCell
  | writeChunk a bytes => exact fun _ => planChunk_writesCell
  | _ => simp [commandPlan, ClientOp.writesCell]

/-- WRITE_BYTE and WRITE_CHUNK are the commands that can write a plane byte. -/
theorem commandPlan_writesPlane {i : Instr} (hbyte : ∀ a v, i ≠ .writeByte a v)
    (hchunk : ∀ a bs, i ≠ .writeChunk a bs) (s : State) : ∀ op ∈ (commandPlan i s).1, op.writesPlane = false := by
  cases i with
  | writeByte a v => exact absurd rfl (hbyte a v)
  | writeChunk a bytes => exact absurd rfl (hchunk a bytes)
  | _ => simp [commandPlan, ClientOp.writesPlane]

/-! The renderer's events write no plane, and of the register cells the status byte alone. -/

theorem runRenderer_planes (ops : List RendererOp) (g : Option Nat) (s : State) :
    (runRenderer ops g s).planes = s.planes :=
  runEvents_induct _ _ keepRenderer (fun t => t.planes = s.planes)
    (fun op t _ ht => (performRenderer_effect op t).planes_eq.trans ht) (fun _ _ ht => ht) ops g s rfl

theorem RendererEffect.sameRegsBut {s t : State} (h : RendererEffect s t) : SameRegsBut .gen s.cfg.idStatus s t := by
  cases h with
  | signal sig on => exact s.updateSignal_sameRegsBut sig on
  | own | fault | time | regRead | planeRead | draw | present | sleep | overrun => exact fun _ _ _ => rfl

theorem runRenderer_sameRegsBut (ops : List RendererOp) (g : Option Nat) (s : State) :
    SameRegsBut .gen s.cfg.idStatus s (runRenderer ops g s) := by
  have hboth : (runRenderer ops g s).cfg = s.cfg ∧ SameRegsBut .gen s.cfg.idStatus s (runRenderer ops g s) := by
    refine runEvents_induct _ _ keepRenderer (fun t => t.cfg = s.cfg ∧ SameRegsBut .gen s.cfg.idStatus s t) ?_
      (fun _ _ ht => ht) ops g s ⟨rfl, fun _ _ _ => rfl⟩
    rintro op t - ⟨hcfg, hregs⟩
    have heffect : RendererEffect t (performRenderer op t) := performRenderer_effect op t
    refine ⟨heffect.cfg_eq.trans hcfg, fun bank id hother => ?_⟩
    rw [heffect.sameRegsBut bank id (by rwa [hcfg]), hregs bank id hother]
  exact hboth.2

theorem exec_planes {i : Instr} {s t : State} (hbyte : ∀ a v, i ≠ .writeByte a v)
    (hchunk : ∀ a bs, i ≠ .writeChunk a bs) (ht : exec i s = .next t) : t.planes = s.planes := by
  cases henc : encode i with
  | words ws =>
    rw [exec_command henc] at ht
    rw [issueCommand_next ht, runClient_planes (commandPlan_writesPlane hbyte hchunk s), commandPlan_draws]
  | phase p =>
    rw [exec_step henc] at ht
    rw [issueStep_next ht, runRenderer_planes, stepPlan_draws]

theorem exec_command_regs {i : Instr} {ws : List Word} {s t : State} (henc : encode i = .words ws)
    (hset : ∀ bank id v, i ≠ .setReg bank id v) (ht : exec i s = .next t) : t.regs = s.regs := by
  rw [exec_command henc] at ht
  rw [issueCommand_next ht, runClient_regs (commandPlan_writesCell hset s), commandPlan_draws]

theorem exec_step_sameRegsBut {i : Instr} {p : BitVec 4} {s t : State} (henc : encode i = .phase p)
    (ht : exec i s = .next t) : SameRegsBut .gen s.cfg.idStatus s t := by
  rw [exec_step henc] at ht
  rw [issueStep_next ht, stepPlan_draws]
  exact runRenderer_sameRegsBut _ _ { s with draws := (stepPlan i s).2.draws }

/-- Settles O32: by the events an instruction issues, and what storage each can write. -/
theorem planesAndRegistersAreWrittenOnlyByTheirOwn : Obligations.PlanesAndRegistersAreWrittenOnlyByTheirOwn := by
  unfold Obligations.PlanesAndRegistersAreWrittenOnlyByTheirOwn
  intro s t i ht
  refine ⟨fun hbyte hchunk k a => ?_, fun ws henc hset bank id => ?_, fun p henc => ?_⟩
  · have hplanes : t.planes = s.planes := exec_planes hbyte hchunk ht
    simp only [State.plane, hplanes]
  · have hregs : t.regs = s.regs := exec_command_regs henc hset ht
    simp only [State.reg, hregs]
  · exact exec_step_sameRegsBut henc ht

end Sys2Proof.Machine

/-! The fields of a command word and the bytes of a data word (30_encoding.md R91, R98): each is read back from the word
put together of them, and a word is put together of its own. -/

namespace Sys2Proof

section CommandWord

variable (op : BitVec 4) (sel : BitVec 2) (data : Byte) (addr : BitVec 16)

theorem getLsbD_commandWord (j : Nat) : (commandWord op sel data addr).getLsbD j =
    if j < 16 then addr.getLsbD j else if j < 24 then data.getLsbD (j - 16) else if j < 26 then false
    else if j < 28 then sel.getLsbD (j - 26) else op.getLsbD (j - 28) := by
  simp only [commandWord, BitVec.getLsbD_append]
  grind

@[simp] theorem selField_commandWord : selField (commandWord op sel data addr) = sel := by
  ext j hj
  simp only [selField, BitVec.getElem_extractLsb', getLsbD_commandWord]
  grind

@[simp] theorem rsvField_commandWord : rsvField (commandWord op sel data addr) = 0 := by
  ext j hj
  simp only [rsvField, BitVec.getElem_extractLsb', getLsbD_commandWord]
  grind

@[simp] theorem dataField_commandWord : dataField (commandWord op sel data addr) = data := by
  ext j hj
  simp only [dataField, BitVec.getElem_extractLsb', getLsbD_commandWord]
  grind

@[simp] theorem addrField_commandWord : addrField (commandWord op sel data addr) = addr := by
  ext j hj
  simp only [addrField, BitVec.getElem_extractLsb', getLsbD_commandWord]
  grind

@[simp] theorem addrHiField_commandWord (hi lo : Byte) : addrHiField (commandWord op sel data (hi ++ lo)) = hi := by
  ext j hj
  simp only [addrHiField, BitVec.getElem_extractLsb', getLsbD_commandWord, BitVec.getLsbD_append]
  grind

@[simp] theorem idField_commandWord (hi lo : Byte) : idField (commandWord op sel data (hi ++ lo)) = lo := by
  ext j hj
  simp only [idField, BitVec.getElem_extractLsb', getLsbD_commandWord, BitVec.getLsbD_append]
  grind

end CommandWord

/-- A word with RSV 0 is put together of its other fields. -/
theorem commandWord_eq {w : Word} {op : BitVec 4} {sel : BitVec 2} {data : Byte} {addr : BitVec 16}
    (hop : opField w = op) (hsel : selField w = sel) (hrsv : rsvField w = 0) (hdata : dataField w = data)
    (haddr : addrField w = addr) : commandWord op sel data addr = w := by
  have h : opField w ++ selField w ++ rsvField w ++ dataField w ++ addrField w = w := by
    refine BitVec.eq_of_getLsbD_eq fun j hj => ?_
    simp only [opField, selField, rsvField, dataField, addrField, BitVec.getLsbD_append, BitVec.getLsbD_extractLsb']
    grind
  rwa [hop, hsel, hrsv, hdata, haddr] at h

/-- An ADDR with a zero high byte is its register code. -/
theorem addrField_of_addrHiField {w : Word} (hhi : addrHiField w = 0) : addrField w = 0#8 ++ idField w := by
  have h : addrField w = addrHiField w ++ idField w := by
    refine BitVec.eq_of_getLsbD_eq fun j hj => ?_
    simp only [addrField, addrHiField, idField, BitVec.getLsbD_append, BitVec.getLsbD_extractLsb']
    grind
  rwa [hhi] at h

theorem wordByte_append (b3 b2 b1 b0 : Byte) :
    wordByte (b3 ++ b2 ++ b1 ++ b0) 0 = b0 ∧ wordByte (b3 ++ b2 ++ b1 ++ b0) 1 = b1
      ∧ wordByte (b3 ++ b2 ++ b1 ++ b0) 2 = b2 ∧ wordByte (b3 ++ b2 ++ b1 ++ b0) 3 = b3 := by
  refine ⟨?_, ?_, ?_, ?_⟩
  all_goals
    ext j hj
    simp only [wordByte, BitVec.getElem_extractLsb', BitVec.getLsbD_append]
    grind

/-- A data word is its four bytes, the first lowest. -/
theorem append_wordByte (w : Word) : wordByte w 3 ++ wordByte w 2 ++ wordByte w 1 ++ wordByte w 0 = w := by
  refine BitVec.eq_of_getLsbD_eq fun j hj => ?_
  simp only [wordByte, BitVec.getLsbD_append, BitVec.getLsbD_extractLsb']
  grind

/-- The bits from byte `n` up are 0 when the bytes from `n` up are. -/
theorem ushiftRight_eq_zero_iff_wordByte (w : Word) (n : Nat) :
    w >>> (8 * n) = 0 ↔ ∀ i, n ≤ i → i < 4 → wordByte w i = 0 := by
  constructor
  · intro h i hni hi
    ext j hj
    have hbit : (w >>> (8 * n)).getLsbD (8 * i + j - 8 * n) = false := by rw [h]; exact BitVec.getLsbD_zero
    rw [BitVec.getLsbD_ushiftRight, show 8 * n + (8 * i + j - 8 * n) = 8 * i + j by omega] at hbit
    simpa [wordByte] using hbit
  · intro h
    ext j hj
    rw [BitVec.getElem_ushiftRight]
    by_cases hlt : 8 * n + j < 32
    · have hbyte : wordByte w ((8 * n + j) / 8) = 0 := h _ (by omega) (by omega)
      have hbit : (wordByte w ((8 * n + j) / 8)).getLsbD ((8 * n + j) % 8) = false := by
        rw [hbyte]; exact BitVec.getLsbD_zero
      rw [wordByte, BitVec.getLsbD_extractLsb', Nat.div_add_mod] at hbit
      simpa [Nat.mod_lt] using hbit
    · simpa using BitVec.getLsbD_of_ge w _ (by omega)

/-! Bank codes (R93). -/

@[simp] theorem bankOfSel_sel (bank : Bank) : bankOfSel bank.sel = bank := by cases bank <;> rfl

@[simp] theorem sel_bankOfSel (sel : BitVec 2) : (bankOfSel sel).sel = sel := by revert sel; decide

end Sys2Proof

/-! Chunk data (30_encoding.md R98, R102, R103): what `takeChunk` answers, word by word, and that it reads exactly what
`packBytes` packs. -/

namespace Sys2Proof

@[simp] theorem takeChunk_zero (ws : List Word) : takeChunk 0 ws = .bytes [] ws := by cases ws <;> rfl

theorem takeChunk_nil {n : Nat} (hn : n ≠ 0) : takeChunk n [] = .short := by simp [takeChunk, hn]

theorem takeChunk_full {n : Nat} (hn : 4 ≤ n) (w : Word) (ws : List Word) :
    takeChunk n (w :: ws) = (takeChunk (n - 4) ws).cons [wordByte w 0, wordByte w 1, wordByte w 2, wordByte w 3] := by
  rw [takeChunk, if_neg (by omega), if_pos hn]

theorem takeChunk_last {n : Nat} (h0 : n ≠ 0) (hn : n < 4) (w : Word) (ws : List Word) :
    takeChunk n (w :: ws) =
      if w >>> (8 * n) = 0 then .bytes ((List.range n).map (wordByte w)) ws else .badPadding := by
  rw [takeChunk, if_neg h0, if_neg (by omega)]

/-- A last data word whose bytes beyond the count are 0. -/
theorem takeChunk_padded {n : Nat} {w : Word} {bs : List Byte} (h0 : n ≠ 0) (hn : n < 4)
    (hbytes : (List.range n).map (wordByte w) = bs) (hpad : ∀ i, n ≤ i → i < 4 → wordByte w i = 0) (rest : List Word) :
    takeChunk n (w :: rest) = .bytes bs rest := by
  rw [takeChunk_last h0 hn, if_pos ((ushiftRight_eq_zero_iff_wordByte w n).2 hpad), hbytes]

/-- Packed bytes are read back, and the words after them left. -/
theorem takeChunk_packBytes (bs : List Byte) (rest : List Word) :
    takeChunk bs.length (packBytes bs ++ rest) = .bytes bs rest := by
  induction bs using packBytes.induct with
  | case1 => exact takeChunk_zero rest
  | case2 b0 =>
    obtain ⟨h0, h1, h2, h3⟩ := wordByte_append 0 0 0 b0
    exact takeChunk_padded (n := 1) (by decide) (by decide) (congrArg (fun b => [b]) h0)
      (fun i hi hlt => by interval_cases i <;> assumption) rest
  | case3 b0 b1 =>
    obtain ⟨h0, h1, h2, h3⟩ := wordByte_append 0 0 b1 b0
    exact takeChunk_padded (n := 2) (by decide) (by decide) (by simpa [List.range_succ] using ⟨h0, h1⟩)
      (fun i hi hlt => by interval_cases i <;> assumption) rest
  | case4 b0 b1 b2 =>
    obtain ⟨h0, h1, h2, h3⟩ := wordByte_append 0 b2 b1 b0
    exact takeChunk_padded (n := 3) (by decide) (by decide) (by simpa [List.range_succ] using ⟨h0, h1, h2⟩)
      (fun i hi hlt => by interval_cases i; assumption) rest
  | case5 b0 b1 b2 b3 bs ih =>
    obtain ⟨h0, h1, h2, h3⟩ := wordByte_append b3 b2 b1 b0
    rw [packBytes, List.cons_append, takeChunk_full (by simp), h0, h1, h2, h3]
    simp [ih, ChunkData.cons]

/-- A last data word with zero padding is what its bytes are packed to. -/
theorem packBytes_last {n : Nat} (h0 : n ≠ 0) (hn : n < 4) {w : Word} (hpad : w >>> (8 * n) = 0) :
    packBytes ((List.range n).map (wordByte w)) = [w] := by
  have hzero := (ushiftRight_eq_zero_iff_wordByte w n).1 hpad
  have hw := append_wordByte w
  obtain rfl | rfl | rfl : n = 1 ∨ n = 2 ∨ n = 3 := by omega
  · rw [hzero 3 (by omega) (by omega), hzero 2 (by omega) (by omega), hzero 1 (by omega) (by omega)] at hw
    exact congrArg (· :: []) hw
  · rw [hzero 3 (by omega) (by omega), hzero 2 (by omega) (by omega)] at hw
    exact congrArg (· :: []) hw
  · rw [hzero 3 (by omega) (by omega)] at hw
    exact congrArg (· :: []) hw

theorem ChunkData.cons_eq_bytes {front bs : List Byte} {d : ChunkData} {rest : List Word}
    (h : d.cons front = .bytes bs rest) : ∃ tail, d = .bytes tail rest ∧ bs = front ++ tail := by
  cases d with
  | bytes tail after =>
    injection h with hbs hrest
    exact ⟨tail, by rw [hrest], hbs.symm⟩
  | badPadding | short => cases h

/-- The data words read are those the bytes are packed to. -/
theorem takeChunk_bytes {n : Nat} {ws rest : List Word} {bs : List Byte} (h : takeChunk n ws = .bytes bs rest) :
    bs.length = n ∧ ws = packBytes bs ++ rest := by
  induction ws generalizing n bs with
  | nil =>
    by_cases h0 : n = 0
    · subst h0
      cases h
      exact ⟨rfl, rfl⟩
    · rw [takeChunk_nil h0] at h
      cases h
  | cons w ws ih =>
    obtain rfl | ⟨h0, hlt⟩ | hle : n = 0 ∨ (n ≠ 0 ∧ n < 4) ∨ 4 ≤ n := by omega
    · cases h
      exact ⟨rfl, rfl⟩
    · rw [takeChunk_last h0 hlt] at h
      split_ifs at h with hpad
      cases h
      exact ⟨by simp, by rw [packBytes_last h0 hlt hpad]; rfl⟩
    · rw [takeChunk_full hle] at h
      obtain ⟨tail, htail, rfl⟩ := ChunkData.cons_eq_bytes h
      obtain ⟨hlen, rfl⟩ := ih htail
      refine ⟨by simp; omega, ?_⟩
      simp [packBytes, append_wordByte]

/-- R103: fewer data words than `ceil(n/4)`. -/
theorem takeChunk_short {n : Nat} {ws : List Word} (h : ws.length < (n + 3) / 4) : takeChunk n ws = .short := by
  induction ws generalizing n with
  | nil => exact takeChunk_nil (by simp at h; omega)
  | cons w ws ih =>
    simp only [List.length_cons] at h
    rw [takeChunk_full (by omega), ih (by omega)]
    rfl

/-- R102: the last data word has a nonzero byte beyond the count. -/
theorem takeChunk_badPadding {n : Nat} {ws : List Word} {last : Word} (hn : n % 4 ≠ 0)
    (hlast : ws[n / 4]? = some last) (hpad : last >>> (8 * (n % 4)) ≠ 0) : takeChunk n ws = .badPadding := by
  induction ws generalizing n with
  | nil => cases hlast
  | cons w ws ih =>
    by_cases hle : 4 ≤ n
    · obtain ⟨m, rfl⟩ := Nat.exists_eq_add_of_le' hle
      rw [Nat.add_mod_right] at hn hpad
      rw [Nat.add_div_right _ (by omega), List.getElem?_cons_succ] at hlast
      rw [takeChunk_full hle, Nat.add_sub_cancel, ih hn hlast hpad]
      rfl
    · rw [Nat.div_eq_of_lt (by omega)] at hlast
      rw [Nat.mod_eq_of_lt (by omega)] at hpad hn
      cases hlast
      rw [takeChunk_last hn (by omega), if_neg hpad]

end Sys2Proof

/-! The first command of a stream (30_encoding.md R91 to R103): what `decodeWords` answers, OP by OP, and both directions
of the round trip with `encode`. -/

namespace Sys2Proof

open Laws.EncodedShape (opField_commandWord)
open Machine (reservedOp malformedFields malformedPadding)

/-- What a WRITE_CHUNK of first word `w` decodes to, by its data words. -/
def ChunkData.decoded (w : Word) : ChunkData → Decoded
  | .bytes bs after => .command (.writeChunk (addrField w) bs) after
  | .badPadding => .illegal w
  | .short => .truncated

section DecodeByOp

variable {w : Word} (rest : List Word)

theorem decodeWords_getReg (hop : opField w = 1) :
    decodeWords (w :: rest) =
      if rsvField w = 0 ∧ dataField w = 0 ∧ addrHiField w = 0 then
        .command (.getReg (bankOfSel (selField w)) (idField w)) rest
      else .illegal w := by
  simp [decodeWords, hop]

theorem decodeWords_setReg (hop : opField w = 2) :
    decodeWords (w :: rest) =
      if rsvField w = 0 ∧ addrHiField w = 0 then
        .command (.setReg (bankOfSel (selField w)) (idField w) (dataField w)) rest
      else .illegal w := by
  simp [decodeWords, hop]

theorem decodeWords_readPlane (hop : opField w = 3) :
    decodeWords (w :: rest) =
      if rsvField w = 0 ∧ dataField w = 0 then .command (.readPlane (selField w).toFin (addrField w)) rest
      else .illegal w := by
  simp [decodeWords, hop]

theorem decodeWords_writeByte (hop : opField w = 4) :
    decodeWords (w :: rest) =
      if selField w = 0 ∧ rsvField w = 0 then .command (.writeByte (addrField w) (dataField w)) rest
      else .illegal w := by
  simp [decodeWords, hop]

theorem decodeWords_startRendering (hop : opField w = 6) :
    decodeWords (w :: rest) =
      if selField w = 0 ∧ rsvField w = 0 ∧ addrField w = 0 then .command (.startRendering (dataField w)) rest
      else .illegal w := by
  simp [decodeWords, hop]

theorem decodeWords_writeFull (hop : opField w = 7) :
    decodeWords (w :: rest) = .command (.writeFull (w.extractLsb' 0 28)) rest := by
  simp [decodeWords, hop]

theorem decodeWords_reservedOp (hop : reservedOp w) : decodeWords (w :: rest) = .illegal w := by
  have hnat : (opField w).toNat = 0 ∨ 8 ≤ (opField w).toNat := hop.imp_left (congrArg BitVec.toNat)
  simp only [decodeWords]
  split
  case h_8 => rfl
  all_goals omega

/-! A WRITE_CHUNK's first word, its count and its data words. -/

theorem decodeWords_writeChunk_illegal (hop : opField w = 5)
    (hfields : ¬(selField w = 0 ∧ rsvField w = 0 ∧ dataField w = 0)) : decodeWords (w :: rest) = .illegal w := by
  simp only [decodeWords, hop]
  exact if_neg hfields

theorem decodeWords_writeChunk_noCount (hop : opField w = 5)
    (hfields : selField w = 0 ∧ rsvField w = 0 ∧ dataField w = 0) : decodeWords [w] = .truncated := by
  simp [decodeWords, hop, hfields]

theorem decodeWords_writeChunk (hop : opField w = 5)
    (hfields : selField w = 0 ∧ rsvField w = 0 ∧ dataField w = 0) (n : Word) (data : List Word) :
    decodeWords (w :: n :: data) = (takeChunk n.toNat data).decoded w := by
  simp only [decodeWords, hop]
  exact if_pos hfields

end DecodeByOp

theorem opField_cases (w : Word) :
    reservedOp w ∨ opField w = 1 ∨ opField w = 2 ∨ opField w = 3 ∨ opField w = 4 ∨ opField w = 5 ∨ opField w = 6
      ∨ opField w = 7 := by
  have h : ∀ op : BitVec 4,
      (op = 0 ∨ 8 ≤ op.toNat) ∨ op = 1 ∨ op = 2 ∨ op = 3 ∨ op = 4 ∨ op = 5 ∨ op = 6 ∨ op = 7 := by
    decide
  exact h (opField w)

/-- A command's encoding decodes to it, and the words after it are left. -/
theorem decodeWords_encode {i : Instr} {ws : List Word} (rest : List Word) (hwf : i.wf = true)
    (henc : encode i = .words ws) : decodeWords (ws ++ rest) = .command i rest := by
  cases i with
  | getReg bank id =>
    cases henc
    exact (decodeWords_getReg rest (opField_commandWord _ _ _ _)).trans (by simp)
  | setReg bank id v =>
    cases henc
    exact (decodeWords_setReg rest (opField_commandWord _ _ _ _)).trans (by simp)
  | readPlane p a =>
    cases henc
    exact (decodeWords_readPlane rest (opField_commandWord _ _ _ _)).trans (by simp)
  | writeByte a v =>
    cases henc
    exact (decodeWords_writeByte rest (opField_commandWord _ _ _ _)).trans (by simp)
  | writeChunk a bs =>
    cases henc
    have hlen : (BitVec.ofNat 32 bs.length).toNat = bs.length := Nat.mod_eq_of_lt (of_decide_eq_true hwf)
    refine (decodeWords_writeChunk (opField_commandWord _ _ _ _) (by simp) _ (packBytes bs ++ rest)).trans ?_
    rw [hlen, takeChunk_packBytes]
    simp [ChunkData.decoded]
  | startRendering mode =>
    cases henc
    exact (decodeWords_startRendering rest (opField_commandWord _ _ _ _)).trans (by simp)
  | writeFull r =>
    cases henc
    refine (decodeWords_writeFull rest BitVec.extractLsb'_append_eq_left).trans ?_
    rw [BitVec.extractLsb'_append_eq_right]
  | frameStart | lineBegin | column | lineEnd | frameEnd | poll | pace => cases henc

/-- R104: a renderer step's phase value selects it. -/
theorem decodePhase_encode {i : Instr} {c : BitVec 4} (henc : encode i = .phase c) : decodePhase c = some i := by
  cases i with
  | getReg | setReg | readPlane | writeByte | writeChunk | startRendering | writeFull => cases henc
  | frameStart | lineBegin | column | lineEnd | frameEnd | poll | pace => cases henc; rfl

/-- Settles O2: by `decodeWords_encode`. -/
theorem streamDecodesCommandByCommand : Obligations.StreamDecodesCommandByCommand := by
  unfold Obligations.StreamDecodesCommandByCommand
  exact fun i ws rest hwf henc => decodeWords_encode rest hwf henc

/-- Settles O1: a command is the whole of the stream that holds its encoding alone; a renderer step is its phase's. -/
theorem decodeInvertsEncode : Obligations.DecodeInvertsEncode := by
  unfold Obligations.DecodeInvertsEncode
  intro i hwf
  cases henc : encode i with
  | words ws =>
    have h : decodeWords ws = .command i [] := by simpa using decodeWords_encode [] hwf henc
    simp [decode, h]
  | phase c => exact decodePhase_encode henc

/-- OP and the other 28 bits are the word (R100). -/
theorem opField_append_extractLsb' (w : Word) : opField w ++ w.extractLsb' 0 28 = w := by
  refine BitVec.eq_of_getLsbD_eq fun j hj => ?_
  simp only [opField, BitVec.getLsbD_append, BitVec.getLsbD_extractLsb']
  grind

theorem ChunkData.decoded_eq_command {w : Word} {d : ChunkData} {i : Instr} {rest : List Word}
    (h : d.decoded w = .command i rest) : ∃ bs, d = .bytes bs rest ∧ i = .writeChunk (addrField w) bs := by
  cases d with
  | bytes bs after =>
    cases h
    exact ⟨bs, rfl, rfl⟩
  | badPadding | short => cases h

/-- The stream begins with the instruction's own words. -/
def BeginsWithEncoding (i : Instr) (ws rest : List Word) : Prop :=
  i.wf = true ∧ ∃ own, encode i = .words own ∧ ws = own ++ rest

/-- A word that has the fields of an instruction's one command word is that word. -/
theorem beginsWithEncoding_of_fields {i : Instr} {w : Word} {op : BitVec 4} {sel : BitVec 2} {data : Byte}
    {addr : BitVec 16} {rest : List Word} (hwf : i.wf = true) (henc : encode i = .words [commandWord op sel data addr])
    (hop : opField w = op) (hsel : selField w = sel) (hrsv : rsvField w = 0) (hdata : dataField w = data)
    (haddr : addrField w = addr) : BeginsWithEncoding i (w :: rest) rest := by
  rw [commandWord_eq hop hsel hrsv hdata haddr] at henc
  exact ⟨hwf, _, henc, rfl⟩

/-- A WRITE_CHUNK's stream is its first word, its count, the packed data words and the rest. -/
theorem beginsWithEncoding_writeChunk {w : Word} (hop : opField w = 5) {i : Instr} {ws rest : List Word}
    (h : decodeWords (w :: ws) = .command i rest) : BeginsWithEncoding i (w :: ws) rest := by
  by_cases hfields : selField w = 0 ∧ rsvField w = 0 ∧ dataField w = 0
  · cases ws with
    | nil =>
      rw [decodeWords_writeChunk_noCount hop hfields] at h
      cases h
    | cons n data =>
      rw [decodeWords_writeChunk hop hfields] at h
      obtain ⟨bs, hbs, rfl⟩ := ChunkData.decoded_eq_command h
      obtain ⟨hlen, rfl⟩ := takeChunk_bytes hbs
      obtain ⟨hsel, hrsv, hdata⟩ := hfields
      refine ⟨decide_eq_true (hlen ▸ n.isLt), _, rfl, ?_⟩
      rw [commandWord_eq hop hsel hrsv hdata rfl, hlen, BitVec.ofNat_toNat, BitVec.setWidth_eq]
      rfl
  · rw [decodeWords_writeChunk_illegal ws hop hfields] at h
    cases h

theorem beginsWithEncoding_of_decodeWords {i : Instr} {ws rest : List Word} (h : decodeWords ws = .command i rest) :
    BeginsWithEncoding i ws rest := by
  cases ws with
  | nil => cases h
  | cons w ws =>
    obtain hop | hop | hop | hop | hop | hop | hop | hop := opField_cases w
    · rw [decodeWords_reservedOp ws hop] at h
      cases h
    · rw [decodeWords_getReg ws hop] at h
      split_ifs at h with hfields
      cases h
      obtain ⟨hrsv, hdata, hhi⟩ := hfields
      exact beginsWithEncoding_of_fields rfl rfl hop (sel_bankOfSel _).symm hrsv hdata (addrField_of_addrHiField hhi)
    · rw [decodeWords_setReg ws hop] at h
      split_ifs at h with hfields
      cases h
      obtain ⟨hrsv, hhi⟩ := hfields
      exact beginsWithEncoding_of_fields rfl rfl hop (sel_bankOfSel _).symm hrsv rfl (addrField_of_addrHiField hhi)
    · rw [decodeWords_readPlane ws hop] at h
      split_ifs at h with hfields
      cases h
      obtain ⟨hrsv, hdata⟩ := hfields
      exact beginsWithEncoding_of_fields rfl rfl hop rfl hrsv hdata rfl
    · rw [decodeWords_writeByte ws hop] at h
      split_ifs at h with hfields
      cases h
      obtain ⟨hsel, hrsv⟩ := hfields
      exact beginsWithEncoding_of_fields rfl rfl hop hsel hrsv rfl rfl
    · exact beginsWithEncoding_writeChunk hop h
    · rw [decodeWords_startRendering ws hop] at h
      split_ifs at h with hfields
      cases h
      obtain ⟨hsel, hrsv, haddr⟩ := hfields
      exact beginsWithEncoding_of_fields rfl rfl hop hsel hrsv rfl haddr
    · rw [decodeWords_writeFull ws hop] at h
      cases h
      have hw := opField_append_extractLsb' w
      rw [hop] at hw
      exact ⟨rfl, _, rfl, congrArg (· :: rest) hw.symm⟩

/-- Settles O3: OP by OP, the fields that must be 0 are, so the word is put together of the command's operands. -/
theorem decodedWordsAreTheEncoding : Obligations.DecodedWordsAreTheEncoding := by
  unfold Obligations.DecodedWordsAreTheEncoding
  exact fun i ws rest h => beginsWithEncoding_of_decodeWords h

/-- Settles O4: each word is decoded. -/
theorem exampleWordsDecodeAsTheSpecSays : Obligations.ExampleWordsDecodeAsTheSpecSays := by
  unfold Obligations.ExampleWordsDecodeAsTheSpecSays
  decide

end Sys2Proof

/-! Malformed and truncated streams (30_encoding.md R101 to R103). -/

namespace Sys2Proof

open Laws.EncodedShape (opField_commandWord)
open Machine (malformedFields malformedPadding)

/-- R102: a field that must be 0 is not. -/
theorem decodeWords_malformedFields {w : Word} (rest : List Word) (hw : malformedFields w) :
    decodeWords (w :: rest) = .illegal w := by
  obtain ⟨hop, hf⟩ | ⟨hop, hf⟩ | ⟨hop, hf⟩ | ⟨hop, hf⟩ | ⟨hop, hf⟩ | ⟨hop, hf⟩ := hw
  · exact (decodeWords_getReg rest hop).trans (if_neg (by tauto))
  · exact (decodeWords_setReg rest hop).trans (if_neg (by tauto))
  · exact (decodeWords_readPlane rest hop).trans (if_neg (by tauto))
  · exact (decodeWords_writeByte rest hop).trans (if_neg (by tauto))
  · exact decodeWords_writeChunk_illegal rest hop (by tauto)
  · exact (decodeWords_startRendering rest hop).trans (if_neg (by tauto))

/-- R102: nonzero padding, whether or not the first word's fields are 0. -/
theorem decodeWords_malformedPadding {w : Word} {rest : List Word} (hw : malformedPadding w rest) :
    decodeWords (w :: rest) = .illegal w := by
  obtain ⟨hop, n, data, last, rfl, hn, hlast, hpad⟩ := hw
  by_cases hfields : selField w = 0 ∧ rsvField w = 0 ∧ dataField w = 0
  · rw [decodeWords_writeChunk hop hfields, takeChunk_badPadding hn hlast hpad]
    rfl
  · exact decodeWords_writeChunk_illegal _ hop hfields

/-- R103: the count word, or some of the `ceil(n/4)` data words, are missing. -/
theorem decodeWords_truncated {a : BitVec 16} {n : Word} {data ws : List Word} (hdata : data.length < (n.toNat + 3) / 4)
    (hws : ws = commandWord 5 0 0 a :: n :: data ∨ ws = [commandWord 5 0 0 a]) : decodeWords ws = .truncated := by
  have hop : opField (commandWord 5 0 0 a) = 5 := opField_commandWord _ _ _ _
  obtain rfl | rfl := hws
  · rw [decodeWords_writeChunk hop (by simp), takeChunk_short hdata]
    rfl
  · exact decodeWords_writeChunk_noCount hop (by simp)

end Sys2Proof

/-! A turn that begins something new (30_encoding.md R103, R104): the agent has an enabled step, and `step` is what its
stream or its phase says. -/

namespace Sys2Proof.Machine

section ClientTurn

variable {s : State} {k : Nat} {c : Client} (hc : s.clients[k]? = some c) (hops : c.ops = [])

include hc hops

theorem agentEnabled_client_of_command (hblocked : c.blocked = false) {i : Instr} {rest : List Word}
    (hdec : decodeWords c.stream = .command i rest) : s.agentEnabled (.client k) = true := by
  simp [State.agentEnabled, hc, Client.enabled, hblocked, hops, hdec]

theorem agentEnabled_client_of_illegal (hblocked : c.blocked = false) {w : Word}
    (hdec : decodeWords c.stream = .illegal w) : s.agentEnabled (.client k) = true := by
  simp [State.agentEnabled, hc, Client.enabled, hblocked, hops, hdec]

theorem agentEnabled_client_of_truncated (hdec : decodeWords c.stream = .truncated) :
    s.agentEnabled (.client k) = false := by
  simp [State.agentEnabled, hc, Client.enabled, hops, hdec]

theorem fetchClient_of_command {i : Instr} {rest : List Word} (hdec : decodeWords c.stream = .command i rest) :
    fetchClient k s = .run i { s with issuer := k, clients := s.clients.set k { c with stream := rest } } := by
  simp [fetchClient, hc, hops, hdec, State.modifyClient, modify_eq_set _ hc]

theorem fetchClient_of_illegal {w : Word} (hdec : decodeWords c.stream = .illegal w) :
    fetchClient k s = .took (s.raise (.client k) (.illegalCommand w)) := by
  simp [fetchClient, hc, hops, hdec]

/-- R237: an illegal word at the head of the stream, at the client's turn. -/
theorem step_of_illegal {g : Option Nat} {ts : List Turn} {w : Word} (hrun : s.running = true)
    (hsched : s.sched = ⟨.client k, g⟩ :: ts) (hblocked : c.blocked = false)
    (hdec : decodeWords c.stream = .illegal w) :
    step s = .next
      { s with
        sched := ts, grant := g, fault := some (.illegalCommand w)
        history := (.client k, .fault (.illegalCommand w)) :: s.history } := by
  have hen : s.agentEnabled (.client k) = true := agentEnabled_client_of_illegal hc hops hblocked hdec
  rw [(everyEnabledAgentMayMoveNext s _ g ts hrun hen hsched).2]
  exact congrArg runFetched (fetchClient_of_illegal (s := { s with sched := ts, grant := g }) hc hops hdec)

end ClientTurn

/-- Settles O5: such a stream decodes to no command and to no illegal word. -/
theorem truncatedChunkLeavesClientStuck : Obligations.TruncatedChunkLeavesClientStuck := by
  unfold Obligations.TruncatedChunkLeavesClientStuck
  intro s k c a n data hc hops hdata hstream
  exact agentEnabled_client_of_truncated hc hops (decodeWords_truncated hdata hstream)

/-- Settles O9: a word with a reserved OP decodes as illegal. -/
theorem reservedOpRaisesIllegalCommand : Obligations.ReservedOpRaisesIllegalCommand := by
  unfold Obligations.ReservedOpRaisesIllegalCommand
  intro s k g ts c w rest hrun hsched hc hblocked hops hstream hop
  exact step_of_illegal hc hops hrun hsched hblocked (hstream ▸ decodeWords_reservedOp rest hop)

/-- Settles O10: a malformed command decodes as illegal, whichever part of it is not 0. -/
theorem malformedCommandRaisesIllegalCommand : Obligations.MalformedCommandRaisesIllegalCommand := by
  unfold Obligations.MalformedCommandRaisesIllegalCommand
  intro s k g ts c w rest hrun hsched hc hblocked hops hstream hw
  have hdec : decodeWords (w :: rest) = .illegal w :=
    hw.elim (decodeWords_malformedFields rest) decodeWords_malformedPadding
  exact step_of_illegal hc hops hrun hsched hblocked (hstream ▸ hdec)

/-- Settles O6: a client whose stream begins with a command has an enabled step, and its turn fetches the command. -/
theorem stepRunsTheDecodedCommand : Obligations.StepRunsTheDecodedCommand := by
  unfold Obligations.StepRunsTheDecodedCommand
  intro s k g ts c i rest hrun hsched hc hblocked hops hdec
  have hen : s.agentEnabled (.client k) = true := agentEnabled_client_of_command hc hops hblocked hdec
  rw [(everyEnabledAgentMayMoveNext s _ g ts hrun hen hsched).2]
  exact congrArg runFetched (fetchClient_of_command (s := { s with sched := ts, grant := g }) hc hops hdec)

/-! The renderer's turn. -/

theorem agentEnabled_renderer_of_phase {s : State} {i : Instr} (hhold : s.renderer.hold = none)
    (hdec : decodePhase s.renderer.phase.code = some i) : s.agentEnabled .renderer = true := by
  simp [State.agentEnabled, State.rendererEnabled, State.answered, hhold, hdec]

theorem fetchRenderer_of_phase {s : State} {i : Instr} (hops : s.renderer.ops = [])
    (hdec : decodePhase s.renderer.phase.code = some i) : fetchRenderer s = .run i s := by
  simp [fetchRenderer, hops, hdec]

/-- Settles O7: the phase selects the step whose encoding is its code, and the renderer's turn fetches that. -/
theorem stepRunsThePhasesStep : Obligations.StepRunsThePhasesStep := by
  unfold Obligations.StepRunsThePhasesStep
  intro s g ts i hrun hsched hhold hops henc
  have hdec : decodePhase s.renderer.phase.code = some i := decodePhase_encode henc
  have hen : s.agentEnabled .renderer = true := agentEnabled_renderer_of_phase hhold hdec
  rw [(everyEnabledAgentMayMoveNext s _ g ts hrun hen hsched).2]
  exact congrArg runFetched (fetchRenderer_of_phase (s := { s with sched := ts, grant := g }) hops hdec)

end Sys2Proof.Machine

/-! A client's command performed event by event (20_memory.md R71): up to its end, or up to a fault. -/

namespace Sys2Proof.Machine

/-- The events of client `k`, one after another. -/
def performAll (k : Nat) (ops : List ClientOp) (s : State) : State := ops.foldl (fun t op => performClient k op t) s

@[simp] theorem performAll_nil (k : Nat) (s : State) : performAll k [] s = s := rfl

@[simp] theorem performAll_cons (k : Nat) (op : ClientOp) (rest : List ClientOp) (s : State) :
    performAll k (op :: rest) s = performAll k rest (performClient k op s) := rfl

theorem performAll_append (k : Nat) (before after : List ClientOp) (s : State) :
    performAll k (before ++ after) s = performAll k after (performAll k before s) := List.foldl_append

/-- No event of a client sets a halted machine going again. -/
theorem ClientEffect.running_before {k : Nat} {s t : State} (h : ClientEffect k s t) (ht : t.running = true) :
    s.running = true := by
  cases h with
  | fault | readFault => cases ht
  | start mode cs hl hp =>
    have hfault : s.fault = none := ((State.running_iff _).1 ht).1
    exact s.running_iff.2 ⟨hfault, by simp [hp]⟩
  | clients | regRead | regWrite | unknownWrite | planeRead | planeWrite => exact ht

theorem running_of_performAll {k : Nat} {ops : List ClientOp} {s : State} (h : (performAll k ops s).running = true) :
    s.running = true := by
  induction ops generalizing s with
  | nil => exact h
  | cons op rest ih => exact (performClient_effect k op s).running_before (ih h)

/-- Events that leave the machine running are performed, if the grant covers them. -/
theorem runClient_append {k : Nat} {before : List ClientOp} (after : List ClientOp) {g : Option Nat} {s : State}
    (hrun : (performAll k before s).running = true) (hgrant : ∀ m, g = some m → before.length ≤ m) :
    runClient k (before ++ after) g s = runClient k after (g.map (· - before.length)) (performAll k before s) := by
  induction before generalizing g s with
  | nil => simp
  | cons op rest ih =>
    have hzero : g ≠ some 0 := fun h => absurd (hgrant 0 h) (by simp)
    have hrest : ∀ m, g.map (· - 1) = some m → rest.length ≤ m := by
      intro m hm
      obtain ⟨n, hn, rfl⟩ := Option.map_eq_some_iff.1 hm
      exact Nat.le_sub_one_of_lt (hgrant n hn)
    have hsub : (g.map (· - 1)).map (· - rest.length) = g.map (· - (op :: rest).length) := by
      simp [Function.comp_def, Nat.sub_sub, Nat.add_comm]
    rw [List.cons_append, runClient_cons k op _ (running_of_performAll hrun) hzero, ih hrun hrest, hsub,
      performAll_cons]

/-- A fault after events that leave the machine running: the events after it are dropped. -/
theorem runClient_raise {k : Nat} {before : List ClientOp} {op : ClientOp} {f : FaultRecord} (after : List ClientOp)
    {g : Option Nat} {s t : State} (hbefore : performAll k before s = t) (hrun : t.running = true)
    (hgrant : ∀ m, g = some m → before.length < m) (hop : performClient k op t = t.raise (.client k) f) :
    runClient k (before ++ op :: after) g s = keepClient k [] (t.raise (.client k) f) := by
  subst hbefore
  have hzero : g.map (· - before.length) ≠ some 0 := by
    intro h
    obtain ⟨n, hn, hsub⟩ := Option.map_eq_some_iff.1 h
    exact absurd (hgrant n hn) (by omega)
  rw [runClient_append _ hrun fun m hm => (hgrant m hm).le, runClient_cons k op after hrun hzero, hop,
    runClient_halted k after _ (State.raise_running _ _ _)]

theorem grant_le_of_covers {s : State} {n m : Nat} (hcovers : s.covers n = true) (hm : s.grant = some m) : n ≤ m := by
  obtain ⟨-, hnone | ⟨g, hg, hle⟩⟩ := (s.covers_iff n).1 hcovers
  · exact absurd (hm.symm.trans hnone) (by simp)
  · obtain rfl : g = m := Option.some.inj (hg.symm.trans hm)
    exact hle

theorem issueCommand_running (plan : List ClientOp × State) {s : State} (hrun : s.running = true) :
    issueCommand plan s = .next (runClient s.issuer plan.1 s.grant plan.2) := by
  obtain ⟨hfault, hphase⟩ := s.running_iff.1 hrun
  rw [issueCommand, if_neg (by simp [hfault]), if_neg hphase]

/-- A command performed to its end. -/
theorem issueCommand_performAll {plan : List ClientOp × State} {s : State} {n : Nat} (hcovers : s.covers n = true)
    (hlen : plan.1.length ≤ n) (hrun : (performAll s.issuer plan.1 plan.2).running = true) :
    issueCommand plan s = .next (keepClient s.issuer [] (performAll s.issuer plan.1 plan.2)) := by
  have hall := runClient_append [] hrun fun m hm => hlen.trans (grant_le_of_covers hcovers hm)
  rw [issueCommand_running plan ((s.covers_iff n).1 hcovers).1, ← List.append_nil plan.1, hall, runClient_nil,
    List.append_nil]

/-! How far a command has come, short of a fault. -/

/-- The client at turn has changed the planes to `planes`, its latch by `f`, and logged `events` (newest first). -/
def State.advance (s : State) (planes : Memory) (events : List (Agent × Event)) (f : Latch → Latch) : State :=
  { s with
    planes := planes
    history := events ++ s.history
    clients := s.clients.modify s.issuer fun c => { c with latch := f c.latch } }

section Advance

variable (s : State) (planes : Memory) (events : List (Agent × Event)) (f : Latch → Latch)

theorem State.advance_mapMask : (s.advance planes events f).mapMask = s.mapMask := rfl

/-- Events that latch nothing. -/
theorem State.advance_id :
    s.advance planes events id = { s with planes := planes, history := events ++ s.history } := by
  show { s with planes := planes, history := events ++ s.history, clients := s.clients.modify s.issuer id } = _
  rw [List.modify_id]

theorem State.advance_advance (planes' : Memory) (events' : List (Agent × Event)) (f' : Latch → Latch) :
    (s.advance planes events f).advance planes' events' f' = s.advance planes' (events' ++ events) (f' ∘ f) := by
  simp only [State.advance, List.append_assoc, List.modify_modify_eq]
  rfl

theorem State.advance_clients_length : (s.advance planes events f).clients.length = s.clients.length :=
  List.length_modify _ _ _

theorem State.advance_client {s : State} {c : Client} (hc : s.clients[s.issuer]? = some c) :
    (s.advance planes events f).clients[s.issuer]? = some { c with latch := f c.latch } := by
  simp [State.advance, hc]

/-- The other clients, once the command is over. -/
theorem sameOtherClients_advance (ops : List ClientOp) :
    SameOtherClients s.issuer s (keepClient s.issuer ops (s.advance planes events f)) := by
  intro j hj
  show ((s.clients.modify s.issuer _).modify s.issuer _)[j]? = _
  rw [List.getElem?_modify_ne _ _ hj.symm, List.getElem?_modify_ne _ _ hj.symm]

/-- The client itself, once the command is over. -/
theorem client_keepClient_advance {s : State} {c : Client} (hc : s.clients[s.issuer]? = some c) :
    (keepClient s.issuer [] (s.advance planes events f)).clients[s.issuer]?
      = some { c with latch := f c.latch, ops := [] } := by
  rw [clients_keepClient, State.advance_client planes events f hc]
  rfl

end Advance

/-- A fault of a command that has logged events and changed its latch. -/
theorem faultsWith_advance (s : State) (d : Draws) (before : List (Agent × Event)) (f : Latch → Latch)
    (r : FaultRecord) :
    FaultsWith r before s (keepClient s.issuer []
      ((State.advance { s with draws := d } s.planes before f).raise (.client s.issuer) r)) := by
  refine ⟨rfl, sameOtherClients_advance s s.planes before f [], fun c hc => ?_⟩
  exact ⟨_, client_keepClient_advance s.planes before f hc, rfl, rfl, rfl, rfl⟩

/-! READ_PLANE (41_addressing.md R123). -/

theorem performClient_readPlane {s : State} {a : Nat} (ha : a < s.cfg.planeBytes) (p : Fin 4) :
    performClient s.issuer (.readPlane p a) s
      = s.advance s.planes [(.client s.issuer, .planeRead p a (s.plane p a))] (·.set 0 (s.plane p a)) := by
  rw [performClient, doReadPlane, State.memRead_eq, if_pos ha]
  rfl

/-- Settles O23: the read latches the byte, and the response is the byte latched. -/
theorem readPlaneRespondsTheByte : Obligations.ReadPlaneRespondsTheByte := by
  unfold Obligations.ReadPlaneRespondsTheByte
  intro s p a c hcovers hc ha
  have hrun : s.running = true := ((s.covers_iff 2).1 hcovers).1
  have hevents : performAll s.issuer [.readPlane p a.toNat, .respond] s
      = doRespond s.issuer (s.advance s.planes [(.client s.issuer, .planeRead p a.toNat (s.plane p a.toNat))]
          (·.set 0 (s.plane p a.toNat))) := by
    rw [performAll_cons, performClient_readPlane ha]
    rfl
  have hissue := issueCommand_performAll (plan := ([.readPlane p a.toNat, .respond], s)) hcovers le_rfl
    (by rw [hevents]; exact hrun)
  rw [hevents] at hissue
  refine hissue.trans ?_
  simp only [doRespond, keepClient, State.modifyClient, State.advance, List.modify_modify_eq]
  rw [modify_eq_set _ hc]
  simp

/-! The commands that come to nothing. -/

/-- Settles O30: its one event is the fault. -/
theorem writeFullIsRefused : Obligations.WriteFullIsRefused := by
  unfold Obligations.WriteFullIsRefused
  intro s rest hcovers
  exact issueCommand_faultsWith [] hcovers rfl

/-- Settles O28: it has no events. -/
theorem emptyChunkIsNoOp : Obligations.EmptyChunkIsNoOp := by
  unfold Obligations.EmptyChunkIsNoOp
  intro s a c hrun hc
  have hissue : exec (.writeChunk a []) s = .next (keepClient s.issuer [] s) := issueCommand_running ([], s) hrun
  rw [hissue, keepClient, State.modifyClient, modify_eq_set _ hc]

theorem planChunk_pastTheEnd {a : Nat} {bytes : List Byte} {s : State} (hne : bytes ≠ [])
    (hend : s.cfg.planeBytes < a + bytes.length) :
    planChunk a bytes s = ([.raise (.boundsFault (max a s.cfg.planeBytes))], s) := by
  rw [planChunk, if_neg hne, if_neg (Nat.not_le.2 hend), chunkFault]

/-- Settles O29: the check of the whole range comes before the first byte's events. -/
theorem chunkPastTheEndWritesNothing : Obligations.ChunkPastTheEndWritesNothing := by
  unfold Obligations.ChunkPastTheEndWritesNothing
  intro s a bs hcovers hne hend
  show ∃ t, issueCommand (planChunk a.toNat bs s) s = .next t ∧ _
  rw [planChunk_pastTheEnd hne hend]
  exact issueCommand_faultsWith [] hcovers rfl

end Sys2Proof.Machine

/-! The plane writes of a single byte (41_addressing.md R120, R121): the four planes' blocks, in any order. -/

namespace Sys2Proof.Machine

/-- R121's test is bit `k` of the Map-Mask. -/
theorem planeEnabled_eq_getLsbD (m : Byte) (k : Fin 4) : planeEnabled m k = m.getLsbD k.val := by
  rw [planeEnabled, BitVec.and_one_eq_setWidth_ofBool_getLsbD, BitVec.getLsbD_ushiftRight, Nat.add_zero]
  cases m.getLsbD k.val <;> rfl

theorem permute_map {α β : Type} (f : α → β) (n : Nat) (l : List α) :
    permute n (l.map f) = (permute n l).map f := by
  induction l generalizing n with
  | nil => rfl
  | cons x xs ih => rw [List.map_cons, permute, permute, ih, List.length_map, List.map_insertIdx]

/-- The planes after the byte `v` at `a` has been written to those of `order` that `mask` enables. -/
def writeEnabled (mask : Byte) (a : Nat) (v : Byte) (order : List (Fin 4)) (planes : Memory) : Memory :=
  order.foldl (fun m p => if mask.getLsbD p.val then cellsPut unlistedByte (planeKey p a) v m else m) planes

theorem cellsGet_writeEnabled (mask : Byte) (a : Nat) (v : Byte) (order : List (Fin 4)) (planes : Memory) (k : Fin 4)
    (a' : Nat) :
    cellsGet unlistedByte (writeEnabled mask a v order planes) (planeKey k a')
      = if k ∈ order ∧ a' = a ∧ mask.getLsbD k.val then v else cellsGet unlistedByte planes (planeKey k a') := by
  induction order generalizing planes with
  | nil => simp [writeEnabled]
  | cons p ps ih =>
    rw [writeEnabled, List.foldl_cons, ← writeEnabled, ih]
    by_cases hp : mask.getLsbD p.val = true
    · rw [if_pos hp, cellsGet_put]
      grind [planeKey_inj]
    · rw [if_neg hp]
      grind

/-- R120's block for one plane, in bounds. -/
theorem performClient_writePlane {s : State} {a : Nat} (ha : a < s.cfg.planeBytes) (p : Fin 4) (v : Byte) :
    performClient s.issuer (.writePlane p a v) s
      = s.advance (writeEnabled s.mapMask a v [p] s.planes) (planeBlock s a v p) id := by
  rw [performClient, doWritePlane, planeEnabled_eq_getLsbD, State.memWrite_eq, State.advance_id]
  cases hmask : s.mapMask.getLsbD p.val with
  | true =>
    have hin : a < (s.readReg (.client s.issuer) .seq s.cfg.idMapMask).cfg.planeBytes := ha
    rw [if_pos rfl, if_pos hin]
    simp only [writeEnabled, planeBlock, List.foldl, hmask]
    rfl
  | false =>
    simp only [writeEnabled, planeBlock, List.foldl, hmask]
    rfl

theorem performAll_writePlanes {s : State} {a : Nat} (ha : a < s.cfg.planeBytes) (v : Byte) (order : List (Fin 4)) :
    performAll s.issuer (order.map fun p => .writePlane p a v) s
      = s.advance (writeEnabled s.mapMask a v order s.planes) (order.reverse.flatMap (planeBlock s a v)) id := by
  induction order generalizing s with
  | nil => exact (s.advance_id s.planes []).symm
  | cons p ps ih =>
    rw [List.map_cons, performAll_cons, performClient_writePlane ha]
    refine (ih (s := s.advance _ _ _) ha).trans ?_
    rw [State.advance_advance, List.reverse_cons, List.flatMap_append, List.flatMap_singleton]
    rfl

end Sys2Proof.Machine

/-! The mode reads before a single-byte write (41_addressing.md R126, R127): three registers, in any order, then the
check. -/

namespace Sys2Proof.Machine

/-- The register read into a latch slot before the planar check (R127). -/
def modeCell (c : Config) : Fin 4 → Bank × Byte
  | 0 => (.seq, c.idSeqMemMode)
  | 1 => (.gc, c.idGcMode)
  | _ => (.gc, c.idGcMisc)

/-- The event that reads it. -/
def readModeOp (c : Config) (slot : Fin 4) : ClientOp := .readMode slot (modeCell c slot).1 (modeCell c slot).2

/-- The byte that event reads. -/
def State.modeByte (s : State) (slot : Fin 4) : Byte := s.reg (modeCell s.cfg slot).1 (modeCell s.cfg slot).2

/-- The entry that event appends. -/
def modeEntry (s : State) (slot : Fin 4) : Agent × Event :=
  (.client s.issuer, .regRead (modeCell s.cfg slot).1 (modeCell s.cfg slot).2 (s.modeByte slot))

/-- A latch after the bytes of some slots have been read into it. -/
def latchBytes (bytes : Fin 4 → Byte) (slots : List (Fin 4)) (l : Latch) : Latch :=
  slots.foldl (fun l (slot : Fin 4) => l.set slot (bytes slot)) l

theorem latchBytes_getElem (bytes : Fin 4 → Byte) (slots : List (Fin 4)) (l : Latch) (i : Fin 4) :
    (latchBytes bytes slots l)[i] = if i ∈ slots then bytes i else l[i] := by
  induction slots generalizing l with
  | nil => rfl
  | cons slot rest ih =>
    rw [latchBytes, List.foldl_cons, ← latchBytes, ih]
    by_cases hi : i = slot
    · subst hi
      simp
    · have hval : slot.val ≠ i.val := fun h => hi (Fin.ext h.symm)
      simp [hi, hval]

theorem modeByte_advance (s : State) (planes : Memory) (events : List (Agent × Event)) (f : Latch → Latch) :
    (s.advance planes events f).modeByte = s.modeByte := rfl

theorem modeEntry_advance (s : State) (planes : Memory) (events : List (Agent × Event)) (f : Latch → Latch) :
    modeEntry (s.advance planes events f) = modeEntry s := rfl

theorem performAll_readModes (s : State) (slots : List (Fin 4)) :
    performAll s.issuer (slots.map (readModeOp s.cfg)) s
      = s.advance s.planes (slots.reverse.map (modeEntry s)) (latchBytes s.modeByte slots) := by
  induction slots generalizing s with
  | nil => exact (s.advance_id s.planes []).symm
  | cons slot rest ih =>
    have hread : performClient s.issuer (readModeOp s.cfg slot) s
        = s.advance s.planes [modeEntry s slot] (·.set slot (s.modeByte slot)) := rfl
    rw [List.map_cons, performAll_cons, hread]
    refine (ih (s.advance _ _ _)).trans ?_
    rw [State.advance_advance, List.reverse_cons, List.map_append, modeByte_advance, modeEntry_advance]
    rfl

/-- The order of the three slots that a drawn number stands for. -/
def modeOrder (order : Nat) : List (Fin 4) := permute order [0, 1, 2]

theorem modeEvents_eq (c : Config) (order a : Nat) :
    modeEvents c order a = (modeOrder order).map (readModeOp c) ++ [.checkPlanar a] := by
  rw [modeOrder, ← permute_map]
  rfl

theorem modeReads_modeOrder (s : State) (order : Nat) : ModeReads s ((modeOrder order).reverse.map (modeEntry s)) :=
  ((List.reverse_perm _).trans (permute_perm order [0, 1, 2])).map (modeEntry s)

/-- The check after the three reads, whatever their order, is the check on the mode registers (R127). -/
theorem clientPlanar_of_modeReads {s : State} (hissuer : s.issuer < s.clients.length) (planes : Memory)
    (events : List (Agent × Event)) (order : Nat) :
    (s.advance planes events (latchBytes s.modeByte (modeOrder order))).clientPlanar s.issuer = s.planar := by
  have hlatch (i : Fin 4) (hi : i ∈ [(0 : Fin 4), 1, 2]) (l : Latch) :
      (latchBytes s.modeByte (modeOrder order) l)[i.val] = s.modeByte i := by
    refine (latchBytes_getElem _ _ l i).trans (if_pos ?_)
    exact (permute_perm order _).mem_iff.2 hi
  have h0 (l : Latch) : (latchBytes s.modeByte (modeOrder order) l)[0] = s.modeByte 0 := hlatch 0 (by decide) l
  have h1 (l : Latch) : (latchBytes s.modeByte (modeOrder order) l)[1] = s.modeByte 1 := hlatch 1 (by decide) l
  have h2 (l : Latch) : (latchBytes s.modeByte (modeOrder order) l)[2] = s.modeByte 2 := hlatch 2 (by decide) l
  simp only [State.clientPlanar, State.advance_client _ _ _ (List.getElem?_eq_getElem hissuer), h0, h1, h2]
  rfl

/-! The events of a single-byte write (R120, R126). -/

theorem planeEvents_eq (order a : Nat) (v : Byte) :
    planeEvents order a v = (permute order allPlanes).map fun p => .writePlane p a v :=
  permute_map _ _ _

theorem planWriteByte_ignoreModeBits {a : Nat} {s : State} (ha : a < s.cfg.planeBytes)
    (hpolicy : s.cfg.addrMode = .ignoreModeBits) (v : Byte) :
    ∃ order, (planWriteByte a v s).1 = planeEvents order a v := by
  rw [planWriteByte, if_pos ((s.inBounds_iff a).2 ha), if_pos hpolicy]
  exact ⟨_, rfl⟩

theorem planWriteByte_faultNonPlanar {a : Nat} {s : State} (ha : a < s.cfg.planeBytes)
    (hpolicy : s.cfg.addrMode = .faultNonPlanar) (v : Byte) :
    ∃ order order', (planWriteByte a v s).1 = modeEvents s.cfg order a ++ planeEvents order' a v := by
  rw [planWriteByte, if_pos ((s.inBounds_iff a).2 ha), if_neg (by simp [hpolicy])]
  exact ⟨_, _, rfl⟩

theorem planWriteByte_length {a : Nat} {s : State} (ha : a < s.cfg.planeBytes) (v : Byte) :
    (planWriteByte a v s).1.length = eventsPerByte s.cfg := by
  cases hpolicy : s.cfg.addrMode with
  | ignoreModeBits =>
    obtain ⟨order, hplan⟩ := planWriteByte_ignoreModeBits ha hpolicy v
    rw [hplan, eventsPerByte, hpolicy, planeEvents, permute_length]
    rfl
  | faultNonPlanar =>
    obtain ⟨order, order', hplan⟩ := planWriteByte_faultNonPlanar ha hpolicy v
    rw [hplan, eventsPerByte, hpolicy, modeEvents, planeEvents]
    simp [allPlanes]

theorem planChunk_inRange {a : Nat} {bytes : List Byte} {s : State} (hend : a + bytes.length ≤ s.cfg.planeBytes) :
    planChunk a bytes s = planBytes a bytes s := by
  unfold planChunk
  split_ifs with hnil
  · rw [hnil, planBytes]
  · rfl

/-! A write outside planar mode. -/

theorem performClient_checkPlanar {k : Nat} {s : State} (hplanar : s.clientPlanar k = false) (a : Nat) :
    performClient k (.checkPlanar a) s = s.raise (.client k) (.addressingModeFault a) :=
  if_neg (Bool.eq_false_iff.1 hplanar)

/-- A command whose first events are the three mode reads and a check that fails. -/
theorem issueCommand_nonPlanar {s : State} {plan : List ClientOp × State} {order a : Nat} {rest : List ClientOp}
    (hcovers : s.covers 4 = true) (hissuer : s.issuer < s.clients.length) (hplanar : s.planar = false)
    (hplan : plan.1 = modeEvents s.cfg order a ++ rest) (hdraws : plan.2 = { s with draws := plan.2.draws }) :
    ∃ t before, issueCommand plan s = .next t ∧ FaultsWith (.addressingModeFault a) before s t
      ∧ ModeReads s before := by
  obtain ⟨ops, u⟩ := plan
  obtain ⟨d, rfl⟩ : ∃ d, u = { s with draws := d } := ⟨_, hdraws⟩
  obtain rfl : ops = _ := hplan
  have hrun : s.running = true := ((s.covers_iff 4).1 hcovers).1
  have hnot : (State.advance { s with draws := d } s.planes ((modeOrder order).reverse.map (modeEntry s))
      (latchBytes s.modeByte (modeOrder order))).clientPlanar s.issuer = false :=
    (clientPlanar_of_modeReads (s := { s with draws := d }) hissuer _ _ order).trans hplanar
  refine ⟨_, _, ?_, faultsWith_advance s d _ (latchBytes s.modeByte (modeOrder order)) _, modeReads_modeOrder s order⟩
  rw [issueCommand_running _ hrun, modeEvents_eq, List.append_assoc, List.singleton_append]
  refine congrArg _ (runClient_raise rest (performAll_readModes { s with draws := d } _) hrun (fun m hm => ?_)
    (performClient_checkPlanar hnot a))
  rw [List.length_map, modeOrder, permute_length]
  exact grant_le_of_covers hcovers hm

/-- Settles O26: both commands begin with the mode reads and the check. -/
theorem nonPlanarWriteFaults : Obligations.NonPlanarWriteFaults := by
  unfold Obligations.NonPlanarWriteFaults
  intro s a v bs hcovers hissuer hpolicy hplanar ha
  obtain ⟨order, order', hplan⟩ := planWriteByte_faultNonPlanar ha hpolicy v
  refine ⟨?_, fun hend => ?_⟩
  · exact issueCommand_nonPlanar hcovers hissuer hplanar hplan (planWriteByte_draws _ _ s)
  · have hchunk : (planChunk a.toNat (v :: bs) s).1 = modeEvents s.cfg order a.toNat
        ++ (planeEvents order' a.toNat v ++ (planBytes (a.toNat + 1) bs (planWriteByte a.toNat v s).2).1) := by
      rw [planChunk_inRange hend, planBytes, hplan, List.append_assoc]
    exact issueCommand_nonPlanar hcovers hissuer hplanar hchunk (planChunk_draws _ _ s)

end Sys2Proof.Machine

/-! Single-byte writes and chunks that no check stops (41_addressing.md R120, R122, R128). -/

namespace Sys2Proof.Machine

/-! The events a write appends depend on the parameters, the registers and the client at turn alone. -/

theorem byteEvents_congr {s t : State} (hcfg : t.cfg = s.cfg) (hregs : t.regs = s.regs) (hissuer : t.issuer = s.issuer)
    (a : Nat) (v : Byte) (events : List (Agent × Event)) : ByteEvents t a v events ↔ ByteEvents s a v events := by
  cases s
  cases t
  cases hcfg
  cases hregs
  cases hissuer
  rfl

theorem chunkEvents_congr {s t : State} (hcfg : t.cfg = s.cfg) (hregs : t.regs = s.regs)
    (hissuer : t.issuer = s.issuer) (a : Nat) (bytes : List Byte) (events : List (Agent × Event)) :
    ChunkEvents t a bytes events ↔ ChunkEvents s a bytes events := by
  induction bytes generalizing a events with
  | nil => rfl
  | cons v vs ih => simp only [ChunkEvents, ih, byteEvents_congr hcfg hregs hissuer]

theorem byteEvents_ignoreModeBits {s : State} (hpolicy : s.cfg.addrMode = .ignoreModeBits) {order : List (Fin 4)}
    (horder : order.Perm allPlanes) (a : Nat) (v : Byte) : ByteEvents s a v (order.flatMap (planeBlock s a v)) :=
  ⟨order, [], horder, by rw [hpolicy], (List.append_nil _).symm⟩

theorem byteEvents_faultNonPlanar {s : State} (hpolicy : s.cfg.addrMode = .faultNonPlanar) {order : List (Fin 4)}
    (horder : order.Perm allPlanes) {reads : List (Agent × Event)} (hreads : ModeReads s reads) (a : Nat) (v : Byte) :
    ByteEvents s a v (order.flatMap (planeBlock s a v) ++ reads) :=
  ⟨order, reads, horder, by rw [hpolicy]; exact hreads, rfl⟩

/-- `t` is `s` after the client at turn has written `bytes` from offset `a` on, to the enabled planes alone. -/
structure RangeWritten (s : State) (a : Nat) (bytes : List Byte) (t : State) : Prop where
  progress : ∃ planes events f, t = s.advance planes events f ∧ ChunkEvents s a bytes events
  inside : ∀ (k : Fin 4) (i : Nat) (b : Byte), bytes[i]? = some b →
    t.plane k (a + i) = if s.mapMask.getLsbD k.val then b else s.plane k (a + i)
  outside : ∀ (k : Fin 4) (a' : Nat), a' < a ∨ a + bytes.length ≤ a' → t.plane k a' = s.plane k a'

theorem RangeWritten.nil (s : State) (a : Nat) : RangeWritten s a [] s where
  progress := ⟨s.planes, [], id, (s.advance_id s.planes []).symm, rfl⟩
  inside _ _ _ hb := by simp at hb
  outside _ _ _ := rfl

theorem RangeWritten.byte {s t : State} {a : Nat} {v : Byte} {planes : Memory} {events : List (Agent × Event)}
    {f : Latch → Latch} (ht : t = s.advance planes events f) (hevents : ByteEvents s a v events)
    (hplanes : ∀ k a', t.plane k a' = if a' = a ∧ s.mapMask.getLsbD k.val = true then v else s.plane k a') :
    RangeWritten s a [v] t where
  progress := ⟨planes, events, f, ht, events, [], hevents, rfl, rfl⟩
  inside k i b hb := by
    obtain ⟨rfl, rfl⟩ : i = 0 ∧ v = b := by simpa [List.getElem?_singleton] using hb
    simp [hplanes]
  outside k a' ha' := by
    have hne : a' ≠ a := by
      rw [List.length_singleton] at ha'
      omega
    rw [hplanes, if_neg fun h => hne h.1]

/-- A byte, then the rest of the range. -/
theorem RangeWritten.cons {s t u : State} {a : Nat} {v : Byte} {vs : List Byte} (hfirst : RangeWritten s a [v] t)
    (hrest : RangeWritten t (a + 1) vs u) : RangeWritten s a (v :: vs) u := by
  obtain ⟨planes, first, f, ht, _, _, hbyte, rfl, rfl⟩ := hfirst.progress
  obtain ⟨planes', events', f', hu, hlater⟩ := hrest.progress
  have hmask : t.mapMask = s.mapMask := by rw [ht, State.advance_mapMask]
  refine ⟨⟨planes', events' ++ first, f' ∘ f, ?_, first, events', hbyte, ?_, rfl⟩, fun k i b hb => ?_,
    fun k a' ha' => ?_⟩
  · rw [hu, ht, State.advance_advance]
  · rw [ht] at hlater
    exact (chunkEvents_congr (s := s) (t := s.advance planes first f) rfl rfl rfl _ _ _).1 hlater
  · cases i with
    | zero =>
      rw [hrest.outside k (a + 0) (.inl (by omega))]
      exact hfirst.inside k 0 b hb
    | succ i =>
      have hold : t.plane k (a + 1 + i) = s.plane k (a + 1 + i) :=
        hfirst.outside k _ (.inr (by rw [List.length_singleton]; omega))
      rw [← Nat.succ_add_eq_add_succ a i, Nat.succ_eq_add_one, hrest.inside k i b hb, hmask, hold]
  · rw [List.length_cons] at ha'
    rw [hrest.outside k a' (by omega), hfirst.outside k a' (by rw [List.length_singleton]; omega)]

/-! A single byte. -/

theorem mem_permute_allPlanes (n : Nat) (k : Fin 4) : k ∈ permute n allPlanes := by
  rw [(permute_perm n allPlanes).mem_iff]
  revert k
  decide

theorem performAll_planeEvents {s : State} {a : Nat} (ha : a < s.cfg.planeBytes) (v : Byte) (order : Nat) :
    performAll s.issuer (planeEvents order a v) s
      = s.advance (writeEnabled s.mapMask a v (permute order allPlanes) s.planes)
          ((permute order allPlanes).reverse.flatMap (planeBlock s a v)) id := by
  rw [planeEvents_eq, performAll_writePlanes ha]

theorem plane_advance_writeEnabled (s : State) (a : Nat) (v : Byte) (order : Nat) (events : List (Agent × Event))
    (f : Latch → Latch) (k : Fin 4) (a' : Nat) :
    (s.advance (writeEnabled s.mapMask a v (permute order allPlanes) s.planes) events f).plane k a'
      = if a' = a ∧ s.mapMask.getLsbD k.val = true then v else s.plane k a' := by
  refine (cellsGet_writeEnabled _ _ _ _ _ _ _).trans ?_
  simp only [mem_permute_allPlanes, true_and]
  rfl

/-- The three mode reads and a check that passes. -/
theorem performAll_modeEvents {s : State} (hissuer : s.issuer < s.clients.length) (hplanar : s.planar = true)
    (order a : Nat) :
    performAll s.issuer (modeEvents s.cfg order a) s
      = s.advance s.planes ((modeOrder order).reverse.map (modeEntry s)) (latchBytes s.modeByte (modeOrder order)) := by
  rw [modeEvents_eq, performAll_append, performAll_readModes]
  exact if_pos ((clientPlanar_of_modeReads hissuer _ _ order).trans hplanar)

/-- The mode reads, a check that passes, and the four planes. -/
theorem performAll_checkedByte {s : State} {a : Nat} (hissuer : s.issuer < s.clients.length)
    (hplanar : s.planar = true) (ha : a < s.cfg.planeBytes) (v : Byte) (order order' : Nat) :
    performAll s.issuer (modeEvents s.cfg order a ++ planeEvents order' a v) s
      = s.advance (writeEnabled s.mapMask a v (permute order' allPlanes) s.planes)
          ((permute order' allPlanes).reverse.flatMap (planeBlock s a v) ++ (modeOrder order).reverse.map (modeEntry s))
          (latchBytes s.modeByte (modeOrder order)) := by
  rw [performAll_append, performAll_modeEvents hissuer hplanar]
  exact (performAll_planeEvents (s := s.advance _ _ _) ha v order').trans (State.advance_advance _ _ _ _ _ _ _)

theorem planar_of_mayWrite {s : State} (hmay : s.mayWrite = true) (hpolicy : s.cfg.addrMode = .faultNonPlanar) :
    s.planar = true := by
  simpa [State.mayWrite, hpolicy] using hmay

/-- The events of a single-byte write, planned in any state with the same parameters. -/
theorem rangeWritten_planWriteByte {s p : State} {a : Nat} (hcfg : p.cfg = s.cfg)
    (hissuer : s.issuer < s.clients.length) (hmay : s.mayWrite = true) (ha : a < s.cfg.planeBytes) (v : Byte) :
    RangeWritten s a [v] (performAll s.issuer (planWriteByte a v p).1 s) := by
  have hperm (n : Nat) : (permute n allPlanes).reverse.Perm allPlanes :=
    (List.reverse_perm _).trans (permute_perm n allPlanes)
  cases hpolicy : s.cfg.addrMode with
  | ignoreModeBits =>
    obtain ⟨order, hplan⟩ := planWriteByte_ignoreModeBits (s := p) (by rwa [hcfg]) (by rwa [hcfg]) v
    rw [hplan, performAll_planeEvents ha]
    exact .byte rfl (byteEvents_ignoreModeBits hpolicy (hperm order) a v) (plane_advance_writeEnabled s a v order _ _)
  | faultNonPlanar =>
    obtain ⟨order, order', hplan⟩ := planWriteByte_faultNonPlanar (s := p) (by rwa [hcfg]) (by rwa [hcfg]) v
    rw [hplan, hcfg, performAll_checkedByte hissuer (planar_of_mayWrite hmay hpolicy) ha]
    exact .byte rfl (byteEvents_faultNonPlanar hpolicy (hperm order') (modeReads_modeOrder s order) a v)
      (plane_advance_writeEnabled s a v order' _ _)

/-! A range of bytes. -/

theorem rangeWritten_planBytes {s p : State} {a : Nat} {bytes : List Byte} (hcfg : p.cfg = s.cfg)
    (hissuer : s.issuer < s.clients.length) (hmay : s.mayWrite = true) (hend : a + bytes.length ≤ s.cfg.planeBytes) :
    RangeWritten s a bytes (performAll s.issuer (planBytes a bytes p).1 s) := by
  induction bytes generalizing a s p with
  | nil => exact .nil s a
  | cons v vs ih =>
    rw [List.length_cons] at hend
    have hfirst := rangeWritten_planWriteByte hcfg hissuer hmay (a := a) (by omega) v
    obtain ⟨planes, events, f, ht, -⟩ := hfirst.progress
    have hdraws : (planWriteByte a v p).2.cfg = s.cfg := by rw [planWriteByte_draws, hcfg]
    rw [planBytes, performAll_append]
    refine hfirst.cons ?_
    rw [ht]
    exact ih (s := s.advance planes events f) hdraws (by rwa [State.advance_clients_length]) hmay
      (by show _ ≤ s.cfg.planeBytes; omega)

theorem planBytes_length {a : Nat} {bytes : List Byte} {s : State} (hend : a + bytes.length ≤ s.cfg.planeBytes) :
    (planBytes a bytes s).1.length = bytes.length * eventsPerByte s.cfg := by
  induction bytes generalizing a s with
  | nil => simp [planBytes]
  | cons v vs ih =>
    rw [List.length_cons] at hend
    have hcfg : (planWriteByte a v s).2.cfg = s.cfg := by rw [planWriteByte_draws]
    rw [planBytes, List.length_append, planWriteByte_length (by omega), ih (by rw [hcfg]; omega), hcfg,
      List.length_cons, Nat.succ_mul, Nat.add_comm]

/-- A command that writes a range, at its end. -/
theorem issueCommand_rangeWritten {s : State} {plan : List ClientOp × State} {a n : Nat} {bytes : List Byte}
    {c : Client} (hcovers : s.covers n = true) (hlen : plan.1.length ≤ n)
    (hc : s.clients[s.issuer]? = some c) (hdraws : plan.2 = { s with draws := plan.2.draws })
    (hwritten : ∀ d, RangeWritten { s with draws := d } a bytes (performAll s.issuer plan.1 { s with draws := d })) :
    ∃ (t : State) (c' : Client), issueCommand plan s = .next t
      ∧ (∀ (k : Fin 4) (i : Nat) (b : Byte), bytes[i]? = some b →
          t.plane k (a + i) = if s.mapMask.getLsbD k.val then b else s.plane k (a + i))
      ∧ (∀ (k : Fin 4) (a' : Nat), a' < a ∨ a + bytes.length ≤ a' → t.plane k a' = s.plane k a')
      ∧ (∃ events, ChunkEvents s a bytes events ∧ t.history = events ++ s.history)
      ∧ t = { s with planes := t.planes, history := t.history, draws := t.draws, clients := t.clients }
      ∧ SameOtherClients s.issuer s t ∧ t.clients[s.issuer]? = some c' ∧ c.Finished c' := by
  obtain ⟨ops, u⟩ := plan
  obtain ⟨d, rfl⟩ : ∃ d, u = { s with draws := d } := ⟨_, hdraws⟩
  obtain ⟨planes, events, f, ht, hevents⟩ := (hwritten d).progress
  have hrun : s.running = true := ((s.covers_iff n).1 hcovers).1
  have hissue := issueCommand_performAll (plan := (ops, { s with draws := d })) hcovers hlen (by rw [ht]; exact hrun)
  obtain ⟨-, hinside, houtside⟩ := hwritten d
  rw [ht] at hissue hinside houtside
  have hsame : ChunkEvents s a bytes events :=
    (chunkEvents_congr (s := s) (t := { s with draws := d }) rfl rfl rfl _ _ _).1 hevents
  exact ⟨_, _, hissue, hinside, houtside, ⟨events, hsame, rfl⟩, rfl,
    sameOtherClients_advance s planes events f [], client_keepClient_advance planes events f hc, rfl, rfl, rfl, rfl⟩

theorem issuer_lt_of_client {s : State} {c : Client} (hc : s.clients[s.issuer]? = some c) :
    s.issuer < s.clients.length := (List.getElem?_eq_some_iff.1 hc).1

/-- Settles O27: by induction on the bytes, each in the state the ones before it have left. -/
theorem writeChunkWritesItsRange : Obligations.WriteChunkWritesItsRange := by
  unfold Obligations.WriteChunkWritesItsRange
  intro s a bs c hcovers hc hend hmay
  show ∃ t c', issueCommand (planChunk a.toNat bs s) s = .next t ∧ _
  rw [planChunk_inRange hend]
  refine issueCommand_rangeWritten hcovers (planBytes_length hend).le hc (planBytes_draws a.toNat bs s) fun d => ?_
  exact rangeWritten_planBytes (s := { s with draws := d }) rfl (issuer_lt_of_client hc) hmay hend

/-- Settles O25: a single-byte write is a range of one byte. -/
theorem writeByteReachesExactlyTheEnabledPlanes : Obligations.WriteByteReachesExactlyTheEnabledPlanes := by
  unfold Obligations.WriteByteReachesExactlyTheEnabledPlanes
  intro s a v c hcovers hc ha hmay
  obtain ⟨t, c', hexec, hinside, houtside, ⟨events, hevents, hhistory⟩, hframe⟩ :=
    issueCommand_rangeWritten (bytes := [v]) hcovers (planWriteByte_length ha v).le hc (planWriteByte_draws a.toNat v s)
      fun d => rangeWritten_planWriteByte (s := { s with draws := d }) (p := s) rfl (issuer_lt_of_client hc) hmay ha v
  obtain ⟨_, _, hbyte, rfl, rfl⟩ := hevents
  refine ⟨t, c', hexec, fun k => hinside k 0 v rfl, fun k a' hne => houtside k a' ?_, ⟨events, hbyte, hhistory⟩,
    hframe⟩
  rw [List.length_singleton]
  omega

end Sys2Proof.Machine

/-! Masked planes (41_addressing.md R121, R128). -/

namespace Sys2Proof.Machine

theorem ClientEffect.plane_of_masked {j : Nat} {s t : State} (h : ClientEffect j s t) {k : Fin 4}
    (hmask : s.mapMask.getLsbD k.val = false) (a : Nat) : t.plane k a = s.plane k a := by
  cases h with
  | planeWrite p b v he hb =>
    have hne : k ≠ p := by
      rintro rfl
      rw [planeEnabled_eq_getLsbD, hmask] at he
      cases he
    rw [State.log_plane, State.plane_setPlane, if_neg fun h => hne h.1, State.readReg_plane]
  | clients | fault | regRead | readFault | regWrite | unknownWrite | planeRead | start => rfl

/-- No event but a register write changes the Map-Mask. -/
theorem performClient_mapMask {op : ClientOp} (hop : op.writesCell = false) (k : Nat) (s : State) :
    (performClient k op s).mapMask = s.mapMask := by
  have hregs := (performClient_storage k op s).2 hop
  have hcfg := (performClient_effect k op s).sameParameters.1
  simp only [State.mapMask, State.reg, hregs, hcfg]

theorem runClient_plane_of_masked {ops : List ClientOp} (hops : ∀ op ∈ ops, op.writesCell = false) (j : Nat)
    (g : Option Nat) {s : State} {k : Fin 4} (hmask : s.mapMask.getLsbD k.val = false) (a : Nat) :
    (runClient j ops g s).plane k a = s.plane k a := by
  have hboth : (runClient j ops g s).mapMask = s.mapMask ∧ (runClient j ops g s).plane k a = s.plane k a := by
    refine runEvents_induct_mem (keep := keepClient j)
      (fun t => t.mapMask = s.mapMask ∧ t.plane k a = s.plane k a) ?_ (fun _ _ ht => ht) g ⟨rfl, rfl⟩
    rintro op hop t ⟨hkeep, hplane⟩
    refine ⟨(performClient_mapMask (hops op hop) j t).trans hkeep, Eq.trans ?_ hplane⟩
    exact (performClient_effect j op t).plane_of_masked (by rwa [hkeep]) a
  exact hboth.2

/-- A command that writes no register cell writes no masked plane. -/
theorem exec_command_plane_of_masked {i : Instr} {ws : List Word} {s t : State} (henc : encode i = .words ws)
    (hset : ∀ bank id v, i ≠ .setReg bank id v) (ht : exec i s = .next t) {k : Fin 4}
    (hmask : s.mapMask.getLsbD k.val = false) (a : Nat) : t.plane k a = s.plane k a := by
  rw [exec_command henc] at ht
  rw [issueCommand_next ht, commandPlan_draws]
  exact runClient_plane_of_masked (s := { s with draws := (commandPlan i s).2.draws }) (commandPlan_writesCell hset s)
    _ _ hmask a

/-- Settles O31: WRITE_BYTE and WRITE_CHUNK leave the Map-Mask they read, and every other instruction every plane. -/
theorem maskedPlanesAreNeverWritten : Obligations.MaskedPlanesAreNeverWritten := by
  unfold Obligations.MaskedPlanesAreNeverWritten
  intro s t i k a ht hmask
  cases i with
  | writeByte b v => exact exec_command_plane_of_masked rfl (by simp) ht hmask a
  | writeChunk b bytes => exact exec_command_plane_of_masked rfl (by simp) ht hmask a
  | _ =>
    have hplanes : t.planes = s.planes := exec_planes (by simp) (by simp) ht
    simp only [State.plane, hplanes]

end Sys2Proof.Machine

/-! Pixel indices (42_compositor_palette.md R140): a lane bit fills bit 0 of its number and no other, so the four shifted
into place do not overlap. -/

namespace Sys2Proof.Machine

@[simp] theorem laneBit_getElem_zero (q : Byte) (b : Fin 8) : (laneBit q b)[0] = q.getLsbD (7 - b.val) := by
  simp [laneBit]

theorem laneBit_getElem_of_ne_zero (q : Byte) (b : Fin 8) {k : Nat} (hk : k < 4) (h0 : k ≠ 0) :
    (laneBit q b)[k] = false := by
  simp [laneBit, h0]

/-- Bit `k` of an index is set when one of the shifted lane bits sets it. -/
theorem pixelIndex_getLsbD (q0 q1 q2 q3 : Byte) (b : Fin 8) (k : Nat) :
    (pixelIndex q0 q1 q2 q3 b).getLsbD k =
      ((laneBit q0 b).getLsbD k || (laneBit q1 b <<< 1).getLsbD k || (laneBit q2 b <<< 2).getLsbD k
        || (laneBit q3 b <<< 3).getLsbD k) := by
  simp only [pixelIndex, BitVec.getLsbD_or]

/-- Settles O33: of the four shifted lane bits only that of plane `k` can set bit `k`, and it is the byte's bit `7-b`. -/
theorem pixelIndexBitsComeFromThePlanes : Obligations.PixelIndexBitsComeFromThePlanes := by
  unfold Obligations.PixelIndexBitsComeFromThePlanes
  intro q0 q1 q2 q3 b
  refine ⟨?_, ?_, ?_, ?_⟩ <;> rw [pixelIndex_getLsbD] <;> simp [laneBit_getElem_of_ne_zero]

end Sys2Proof.Machine

/-! Signals under well-formed masks (10_state.md R11, R22): one bit each, not the same. -/

namespace Sys2Proof.Machine

theorem oneBit_iff {m : Byte} : oneBit m = true ↔ ∃ i < 8, m = 1#8 <<< i := by
  simp [oneBit]

theorem ne_zero_of_oneBit {m : Byte} (h : oneBit m = true) : m ≠ 0 := by
  obtain ⟨i, hi, rfl⟩ := oneBit_iff.1 h
  interval_cases i <;> decide

theorem and_eq_zero_of_oneBit {m m' : Byte} (h : oneBit m = true) (h' : oneBit m' = true) (hne : m ≠ m') :
    m &&& m' = 0 := by
  obtain ⟨i, hi, rfl⟩ := oneBit_iff.1 h
  obtain ⟨j, hj, rfl⟩ := oneBit_iff.1 h'
  have hall : ∀ i j : Fin 8, 1#8 <<< i.val ≠ 1#8 <<< j.val → 1#8 <<< i.val &&& 1#8 <<< j.val = 0 := by decide
  exact hall ⟨i, hi⟩ ⟨j, hj⟩ hne

theorem Config.wf_masks {c : Config} (hwf : c.wf = true) :
    oneBit c.vrMask = true ∧ oneBit c.deMask = true ∧ c.vrMask ≠ c.deMask := by
  simp only [Config.wf, Bool.and_eq_true, decide_eq_true_eq] at hwf
  tauto

theorem Signal.mask_ne_zero {c : Config} (hwf : c.wf = true) (sig : Signal) : Signal.mask c sig ≠ 0 := by
  obtain ⟨hvr, hde, -⟩ := Config.wf_masks hwf
  cases sig with
  | vr => exact ne_zero_of_oneBit hvr
  | de => exact ne_zero_of_oneBit hde

theorem Signal.mask_and_mask {c : Config} (hwf : c.wf = true) {sig sig' : Signal} (hne : sig ≠ sig') :
    Signal.mask c sig &&& Signal.mask c sig' = 0 := by
  obtain ⟨hvr, hde, hmasks⟩ := Config.wf_masks hwf
  cases sig <;> cases sig'
  · exact absurd rfl hne
  · exact and_eq_zero_of_oneBit hvr hde hmasks
  · exact and_eq_zero_of_oneBit hde hvr hmasks.symm
  · exact absurd rfl hne

/-- A signal update leaves the bits of a mask disjoint from its own. -/
theorem signalByte_and_of_disjoint {c : Config} {sig : Signal} {m : Byte} (hdisj : Signal.mask c sig &&& m = 0)
    (on : Bool) (b : Byte) : signalByte c sig on b &&& m = b &&& m := by
  have hbits : ∀ j (hj : j < 8), (Signal.mask c sig)[j] = true → m[j] = false := by
    intro j hj hmask
    have := congrArg (·[j]) hdisj
    simpa [hmask] using this
  ext j hj
  have hj' := hbits j hj
  cases on with
  | true => simp [signalByte]; grind
  | false => simp [signalByte]; grind

/-- The signal is active (R22). -/
def State.signalOn (s : State) (sig : Signal) : Bool := decide (s.status &&& Signal.mask s.cfg sig ≠ 0)

/-- A signal update sets or clears its own signal and leaves the other. -/
theorem State.signalOn_updateSignal {s : State} (hwf : s.cfg.wf = true) (sig sig' : Signal) (on : Bool) :
    (s.updateSignal sig on).signalOn sig' = if sig = sig' then on else s.signalOn sig' := by
  have hcfg : (s.updateSignal sig on).cfg = s.cfg := rfl
  simp only [State.signalOn, hcfg, State.status_updateSignal]
  split_ifs with hsig
  · subst hsig
    rw [signalByte_and_mask]
    cases on with
    | true => simpa using Signal.mask_ne_zero hwf sig
    | false => simp
  · rw [signalByte_and_of_disjoint (Signal.mask_and_mask hwf hsig)]

theorem vr_updateSignal {s : State} (hwf : s.cfg.wf = true) (sig : Signal) (on : Bool) :
    (s.updateSignal sig on).vr = if sig = .vr then on else s.vr :=
  State.signalOn_updateSignal hwf sig .vr on

theorem de_updateSignal {s : State} (hwf : s.cfg.wf = true) (sig : Signal) (on : Bool) :
    (s.updateSignal sig on).de = if sig = .de then on else s.de :=
  State.signalOn_updateSignal hwf sig .de on

theorem performRenderer_signal (sig : Signal) (on : Bool) (s : State) :
    performRenderer (.signal sig on) s = s.updateSignal sig on := by
  cases sig <;> cases on <;> rfl

end Sys2Proof.Machine

/-! The renderer's place in the frame loop (43_frame_renderer.md R160, R162, 45_status_signals.md R204): where it stands
with the events it still has to perform, and how each event moves it on. -/

namespace Sys2Proof.Machine

/-! A client's event. -/

/-- The position reads the renderer's registers, VR, DE and whether a frame has been presented. -/
theorem AtPhase.congr {s t : State} (hs : AtPhase s) (hrenderer : t.renderer = s.renderer) (hvr : t.vr = s.vr)
    (hde : t.de = s.de) (hpresented : presented t = presented s) : AtPhase t := by
  simp only [AtPhase, OnScanline, hrenderer, hvr, hde, hpresented]
  exact hs

theorem State.vr_setCell_of_ne (s : State) {bank : Bank} {id : Byte} (v : Byte)
    (hid : ¬(bank = .gen ∧ id = s.cfg.idStatus)) : (s.setCell bank id v).vr = s.vr := by
  simp only [State.vr, s.status_setCell_of_ne v hid, State.setCell_cfg]

theorem State.de_setCell_of_ne (s : State) {bank : Bank} {id : Byte} (v : Byte)
    (hid : ¬(bank = .gen ∧ id = s.cfg.idStatus)) : (s.setCell bank id v).de = s.de := by
  simp only [State.de, s.status_setCell_of_ne v hid, State.setCell_cfg]

/-- START_RENDERING's start enters the loop at FRAME_START, where nothing has been presented (R213, R160). -/
theorem AtPhase.start {s : State} (hs : AtPhase s) (hidle : s.renderer.phase = .idle) (mode : Byte)
    (cs : List Client) :
    AtPhase { s with renderer := { s.renderer with mode := mode, phase := .frameStart }, clients := cs } := by
  simp only [AtPhase, hidle] at hs
  obtain ⟨hops, hhold, hnone⟩ := hs
  have hnot {p : Prop} (h : presented s = true) : p := absurd (hnone.symm.trans h) (by decide)
  exact ⟨hhold, hnot, [], rfl, .inl ⟨.inl hops, hnot⟩⟩

theorem ClientEffect.rendererInPosition {k : Nat} {s t : State} (h : ClientEffect k s t) (hfault : s.fault = none)
    (hs : RendererInPosition s) : RendererInPosition t := by
  have hat : AtPhase s := hs hfault
  cases h with
  | fault | readFault => exact nofun
  | clients cs hl => exact fun _ => hat
  | regRead | unknownWrite | planeRead | planeWrite => exact fun _ => hat.congr rfl rfl rfl rfl
  | regWrite bank id v hid hk =>
    exact fun _ => hat.congr rfl (s.vr_setCell_of_ne v hid) (s.de_setCell_of_ne v hid) rfl
  | start mode cs hl hp => exact fun _ => hat.start hp mode cs

/-- A client's events, performed. -/
theorem runClient_rendererInPosition (k : Nat) (ops : List ClientOp) (g : Option Nat) {s : State}
    (hs : RendererInPosition s) : RendererInPosition (runClient k ops g s) :=
  runEvents_induct _ _ (keepClient k) RendererInPosition
    (fun op t hrun ht => (performClient_effect k op t).rendererInPosition (t.running_iff.1 hrun).1 ht)
    (fun _ _ ht => ht) ops g s hs

/-! The renderer's event. -/

@[simp] theorem keepRenderer_renderer (ops : List RendererOp) (s : State) :
    (keepRenderer ops s).renderer = { s.renderer with ops := ops } := rfl

@[simp] theorem keepRenderer_vr (ops : List RendererOp) (s : State) : (keepRenderer ops s).vr = s.vr := rfl

@[simp] theorem keepRenderer_de (ops : List RendererOp) (s : State) : (keepRenderer ops s).de = s.de := rfl

@[simp] theorem keepRenderer_presented (ops : List RendererOp) (s : State) :
    presented (keepRenderer ops s) = presented s := rfl

theorem doReadTime_eq (s : State) :
    doReadTime s
      = { s with
          now := s.drawNow.1, draws := s.drawNow.2.draws, renderer := { s.renderer with t0 := s.drawNow.1 } } := by
  obtain ⟨-, hnow, -⟩ := drawNow_spec s
  rw [doReadTime, hnow]
  rfl

/-! FRAME_START (R161). -/

theorem pitchOf_latched {o : Byte} (ho : o ≠ 0) : pitchOf o % 2 = 0 ∧ 2 ≤ pitchOf o ∧ pitchOf o ≤ 510 := by
  have hlt : o.toNat < 256 := o.isLt
  have hpos : o.toNat ≠ 0 := fun h => ho (BitVec.eq_of_toNat_eq h)
  unfold pitchOf
  omega

theorem startOf_lt (hi lo : Byte) : startOf hi lo < 65536 := BitVec.isLt _

theorem doLatchFrame_inPosition {s : State} (hhold : s.renderer.hold = none) (hvr : s.vr = false)
    (hde : presented s = true → s.de = true) : RendererInPosition (keepRenderer [] (doLatchFrame s)) := by
  unfold doLatchFrame
  split_ifs with hpitch
  · exact nofun
  · intro _
    have hlatched := pitchOf_latched hpitch
    have hrow : startOf s.renderer.latch[1] s.renderer.latch[2]
        = startOf s.renderer.latch[1] s.renderer.latch[2] + 0 * pitchOf s.renderer.latch[0] := by omega
    exact ⟨hhold, ⟨⟨startOf_lt _ _, hlatched⟩, Nat.succ_pos _, hrow, hvr⟩,
      .inl ⟨.inl rfl, fun h => hde (h.resolve_left (Nat.lt_irrefl 0))⟩⟩

theorem AtPhase.frameStart_event {op : RendererOp} {rest : List RendererOp} {s : State} (hwf : s.cfg.wf = true)
    (hphase : s.renderer.phase = .frameStart) (hs : AtPhase (keepRenderer (op :: rest) s)) :
    RendererInPosition (keepRenderer rest (performRenderer op s)) := by
  simp only [AtPhase, keepRenderer_renderer, keepRenderer_vr, keepRenderer_de, keepRenderer_presented, hphase] at hs
  obtain ⟨hhold, hde, ls, hls, ⟨hnil | htime | hsignal, hvr⟩ | ⟨hreads, hvr⟩⟩ := hs
  · cases hnil
  · cases htime
    intro _
    rw [performRenderer, doReadTime_eq]
    simp only [AtPhase, keepRenderer_renderer, hphase]
    exact ⟨hhold, hde, ls, hls, .inl ⟨.inr (.inr rfl), hvr⟩⟩
  · cases hsignal
    intro _
    rw [performRenderer_signal]
    have hde' := de_updateSignal hwf .vr false
    have hvr' := vr_updateSignal hwf .vr false
    simp only [AtPhase, keepRenderer_renderer, keepRenderer_vr, keepRenderer_de, State.updateSignal_eq, hphase]
    exact ⟨hhold, fun h => hde'.trans (hde h), ls, hls, .inr ⟨rfl, hvr'⟩⟩
  · cases ls with
    | nil =>
      cases hreads
      exact doLatchFrame_inPosition hhold hvr hde
    | cons l ls =>
      cases hreads
      rw [List.all_cons, Bool.and_eq_true] at hls
      obtain ⟨hl, hls⟩ := hls
      cases op with
      | latchReg slot bank id =>
        intro _
        simp only [AtPhase, keepRenderer_renderer, performRenderer, doLatchReg, State.modifyRenderer_renderer,
          State.readReg_renderer, hphase]
        exact ⟨hhold, hde, ls, hls, .inr ⟨rfl, hvr⟩⟩
      | _ => cases hl

/-! LINE_BEGIN, COLUMN and LINE_END (R163 to R165). -/

theorem AtPhase.lineBegin_event {op : RendererOp} {rest : List RendererOp} {s : State} (hwf : s.cfg.wf = true)
    (hphase : s.renderer.phase = .lineBegin) (hs : AtPhase (keepRenderer (op :: rest) s)) :
    RendererInPosition (keepRenderer rest (performRenderer op s)) := by
  simp only [AtPhase, keepRenderer_renderer, keepRenderer_de, keepRenderer_presented, hphase] at hs
  obtain ⟨hhold, ⟨hlatched, hy, hrow, hvr⟩, ⟨hnil | hsignal, -⟩ | ⟨henter, hde⟩⟩ := hs
  · cases hnil
  · cases hsignal
    intro _
    rw [performRenderer_signal]
    have hvr' : (s.updateSignal .de false).vr = false := (vr_updateSignal hwf .de false).trans hvr
    have hde' := de_updateSignal hwf .de false
    simp only [AtPhase, keepRenderer_renderer, keepRenderer_de, State.updateSignal_eq, hphase]
    exact ⟨hhold, ⟨hlatched, hy, hrow, hvr'⟩, .inr ⟨trivial, hde'⟩⟩
  · cases henter
    exact fun _ => ⟨hhold, ⟨hlatched, hy, hrow, hvr⟩, Nat.succ_pos _, hde, .inl rfl⟩

theorem doDrawColumn_atPhase {s : State} (hphase : s.renderer.phase = .column) (hhold : s.renderer.hold = none)
    (hline : OnScanline s) (hcol : s.renderer.col < cols) (hde : s.de = false) :
    AtPhase (keepRenderer [] (doDrawColumn s)) := by
  obtain ⟨hlatched, hy, hrow, hvr⟩ := hline
  by_cases hlast : s.renderer.col + 1 = cols
  · simp only [AtPhase, keepRenderer_renderer, doDrawColumn, hlast, if_true]
    exact ⟨hhold, hlatched, hy, trivial, hvr, .inl ⟨hrow, hde, .inl trivial⟩⟩
  · simp only [AtPhase, keepRenderer_renderer, doDrawColumn, hlast, if_false, hphase]
    exact ⟨hhold, ⟨hlatched, hy, hrow, hvr⟩, by omega, hde, .inl trivial⟩

theorem AtPhase.column_event {op : RendererOp} {rest : List RendererOp} {s : State}
    (hphase : s.renderer.phase = .column) (hs : AtPhase (keepRenderer (op :: rest) s)) :
    RendererInPosition (keepRenderer rest (performRenderer op s)) := by
  simp only [AtPhase, keepRenderer_renderer, keepRenderer_de, hphase] at hs
  obtain ⟨hhold, hline, hcol, hde, hnil | ⟨f, hraise⟩ | ⟨ls, hls, hreads⟩⟩ := hs
  · cases hnil
  · cases hraise
    exact nofun
  · cases ls with
    | nil =>
      cases hreads
      exact fun _ => doDrawColumn_atPhase hphase hhold hline hcol hde
    | cons l ls =>
      cases hreads
      rw [List.all_cons, Bool.and_eq_true] at hls
      obtain ⟨hl, hls⟩ := hls
      cases op with
      | latchPlane p a =>
        rw [performRenderer, doLatchPlane, State.memRead_eq]
        split_ifs
        · intro _
          simp only [AtPhase, keepRenderer_renderer, State.modifyRenderer_renderer, State.log_renderer, hphase]
          exact ⟨hhold, hline, hcol, hde, .inr (.inr ⟨ls, hls, rfl⟩)⟩
        · exact nofun
      | _ => cases hl

theorem doNextLine_atPhase {s : State} (hhold : s.renderer.hold = none) (hlatched : FrameLatched s.renderer)
    (hy : s.renderer.y < displayH)
    (hrow : s.renderer.rowBase = s.renderer.start + (s.renderer.y + 1) * s.renderer.pitch) (hvr : s.vr = false)
    (hde : s.de = true) : AtPhase (keepRenderer [] (doNextLine s)) := by
  by_cases hlast : s.renderer.y + 1 = displayH
  · simp only [AtPhase, keepRenderer_renderer, doNextLine, State.modifyRenderer_renderer, hlast, if_true]
    exact ⟨trivial, hde, .inl ⟨hhold, hvr, .inl trivial⟩⟩
  · simp only [AtPhase, keepRenderer_renderer, doNextLine, State.modifyRenderer_renderer, hlast, if_false]
    exact ⟨hhold, ⟨hlatched, Nat.lt_of_le_of_ne hy hlast, hrow, hvr⟩, .inl ⟨.inl trivial, fun _ => hde⟩⟩

theorem AtPhase.lineEnd_event {op : RendererOp} {rest : List RendererOp} {s : State} (hwf : s.cfg.wf = true)
    (hphase : s.renderer.phase = .lineEnd) (hs : AtPhase (keepRenderer (op :: rest) s)) :
    RendererInPosition (keepRenderer rest (performRenderer op s)) := by
  simp only [AtPhase, keepRenderer_renderer, keepRenderer_vr, keepRenderer_de, hphase] at hs
  obtain ⟨hhold, hlatched, hy, hcol, hvr, ⟨hrow, hde, hnil | hadvance⟩ | ⟨hrow, ⟨hsignal, hde⟩ | ⟨hnext, hde⟩⟩⟩ := hs
  · cases hnil
  · cases hadvance
    intro _
    have hrow' : s.renderer.rowBase + s.renderer.pitch
        = s.renderer.start + (s.renderer.y + 1) * s.renderer.pitch := by rw [hrow]; ring
    simp only [AtPhase, keepRenderer_renderer, performRenderer, doAdvanceRow, State.modifyRenderer_renderer, hphase]
    exact ⟨hhold, hlatched, hy, hcol, hvr, .inr ⟨hrow', .inl ⟨trivial, hde⟩⟩⟩
  · cases hsignal
    intro _
    rw [performRenderer_signal]
    have hvr' : (s.updateSignal .de true).vr = false := (vr_updateSignal hwf .de true).trans hvr
    have hde' := de_updateSignal hwf .de true
    simp only [AtPhase, keepRenderer_renderer, keepRenderer_vr, keepRenderer_de, State.updateSignal_eq, hphase]
    exact ⟨hhold, hlatched, hy, hcol, hvr', .inr ⟨hrow, .inr ⟨trivial, hde'⟩⟩⟩
  · cases hnext
    exact fun _ => doNextLine_atPhase hhold hlatched hy hrow hvr hde

/-! FRAME_END, POLL and PACE (R166 to R168, R190). -/

/-- The host's answer ends the hold, or is a fault. -/
theorem liftHold_inPosition {s : State} {rest : List RendererOp} (hanswered : s.answered = true)
    (hs : ∀ d, AtPhase (keepRenderer rest { s with renderer := { s.renderer with hold := none }, draws := d })) :
    RendererInPosition (keepRenderer rest s.liftHold) := by
  obtain ⟨d, hlift⟩ | ⟨d, hlift, -⟩ := liftHold_answered hanswered
  · rw [hlift]
    exact fun _ => hs d
  · rw [hlift]
    exact nofun

theorem AtPhase.frameEnd_event {op : RendererOp} {rest : List RendererOp} {s : State} (hwf : s.cfg.wf = true)
    (hcan : rendererCan op s = true) (hphase : s.renderer.phase = .frameEnd)
    (hs : AtPhase (keepRenderer (op :: rest) s)) : RendererInPosition (keepRenderer rest (performRenderer op s)) := by
  simp only [AtPhase, keepRenderer_renderer, keepRenderer_vr, keepRenderer_de, hphase] at hs
  obtain ⟨hy, hde, ⟨hhold, hvr, hnil | hsignal⟩ | ⟨hvr, ⟨hhold, hpresent⟩ | hawait | ⟨hhold, henter⟩⟩⟩ := hs
  · cases hnil
  · cases hsignal
    intro _
    rw [performRenderer_signal]
    have hvr' := vr_updateSignal hwf .vr true
    have hde' : (s.updateSignal .vr true).de = true := (de_updateSignal hwf .vr true).trans hde
    simp only [AtPhase, keepRenderer_renderer, keepRenderer_vr, keepRenderer_de, State.updateSignal_eq, hphase]
    exact ⟨hy, hde', .inr ⟨hvr', .inl ⟨hhold, trivial⟩⟩⟩
  · cases hpresent
    intro _
    simp only [AtPhase, keepRenderer_renderer, performRenderer, doPresent, State.modifyRenderer_renderer,
      State.log_renderer, hphase]
    exact ⟨hy, hde, .inr ⟨hvr, .inr (.inl trivial)⟩⟩
  · cases hawait
    refine liftHold_inPosition hcan fun d => ?_
    simp only [AtPhase, keepRenderer_renderer, hphase]
    exact ⟨hy, hde, .inr ⟨hvr, .inr (.inr ⟨trivial, trivial⟩)⟩⟩
  · cases henter
    exact fun _ => ⟨hhold, hvr, hde, .inl rfl⟩

theorem AtPhase.poll_event {op : RendererOp} {rest : List RendererOp} {s : State}
    (hphase : s.renderer.phase = .poll) (hs : AtPhase (keepRenderer (op :: rest) s)) :
    RendererInPosition (keepRenderer rest (performRenderer op s)) := by
  simp only [AtPhase, keepRenderer_renderer, keepRenderer_vr, keepRenderer_de, hphase] at hs
  obtain ⟨hhold, hvr, hde, hnil | hpoll⟩ := hs
  · cases hnil
  · cases hpoll
    intro _
    rw [performRenderer, doPoll, drawTerminate_draws]
    cases s.drawTerminate.1 with
    | true => exact ⟨hvr, hde, rfl⟩
    | false => exact ⟨hvr, hde, .inl ⟨hhold, rfl⟩⟩

theorem AtPhase.pace_event {op : RendererOp} {rest : List RendererOp} {s : State}
    (hcan : rendererCan op s = true) (hphase : s.renderer.phase = .pace)
    (hs : AtPhase (keepRenderer (op :: rest) s)) : RendererInPosition (keepRenderer rest (performRenderer op s)) := by
  simp only [AtPhase, keepRenderer_renderer, keepRenderer_vr, keepRenderer_de, hphase] at hs
  obtain ⟨hvr, hde, ⟨hhold, hnil⟩ | ⟨hhold, hpace⟩ | hawait | ⟨hhold, henter⟩⟩ := hs
  · cases hnil
  · cases hpace
    intro _
    obtain ⟨-, hnow, -⟩ := drawNow_spec s
    rw [performRenderer, doPace, hnow]
    split_ifs <;>
      (simp only [AtPhase, keepRenderer_renderer, State.modifyRenderer_renderer, State.log_renderer, hphase]
       exact ⟨hvr, hde, .inr (.inr (.inl trivial))⟩)
  · cases hawait
    refine liftHold_inPosition hcan fun d => ?_
    simp only [AtPhase, keepRenderer_renderer, hphase]
    exact ⟨hvr, hde, .inr (.inr (.inr ⟨trivial, trivial⟩))⟩
  · cases henter
    exact fun _ => ⟨hhold, fun _ => hde, [], rfl, .inl ⟨.inl rfl, fun _ => hvr⟩⟩

/-! A turn. -/

/-- An event of the renderer takes it from one place in the loop to the next, or is a fault. -/
theorem AtPhase.event {op : RendererOp} {rest : List RendererOp} {s : State} (hwf : s.cfg.wf = true)
    (hcan : rendererCan op s = true) (hs : AtPhase (keepRenderer (op :: rest) s)) :
    RendererInPosition (keepRenderer rest (performRenderer op s)) := by
  cases hphase : s.renderer.phase with
  | idle | terminated => simp [AtPhase, hphase] at hs
  | frameStart => exact hs.frameStart_event hwf hphase
  | lineBegin => exact hs.lineBegin_event hwf hphase
  | column => exact hs.column_event hphase
  | lineEnd => exact hs.lineEnd_event hwf hphase
  | frameEnd => exact hs.frameEnd_event hwf hcan hphase
  | poll => exact hs.poll_event hphase
  | pace => exact hs.pace_event hcan hphase

/-- A machine that has halted drops the renderer's pending events. -/
theorem RendererInPosition.drop {ops : List RendererOp} {s : State} (hhalted : s.running = false)
    (hs : RendererInPosition (keepRenderer ops s)) : RendererInPosition (keepRenderer [] s) := by
  intro hfault
  have hphase : s.renderer.phase = .terminated := by
    by_contra hne
    exact absurd (s.running_iff.2 ⟨hfault, hne⟩) (by simp [hhalted])
  have hat : AtPhase (keepRenderer ops s) := hs hfault
  simp only [AtPhase, keepRenderer_renderer, keepRenderer_vr, keepRenderer_de, hphase] at hat ⊢
  exact ⟨hat.1, hat.2.1, trivial⟩

/-- The renderer's events, performed: all of them or some, the others pending. -/
theorem runRenderer_rendererInPosition (ops : List RendererOp) (g : Option Nat) {s : State} (hwf : s.cfg.wf = true)
    (hs : RendererInPosition (keepRenderer ops s)) : RendererInPosition (runRenderer ops g s) := by
  induction ops generalizing g s with
  | nil => exact hs
  | cons op rest ih =>
    unfold runRenderer runEvents
    split_ifs with hrun hgrant hcan
    · exact hs
    · refine ih _ ?_ ((hs (s.running_iff.1 hrun).1).event hwf hcan)
      rwa [(performRenderer_effect op s).cfg_eq]
    · exact hs
    · exact hs.drop (by simpa using hrun)

theorem frameReads_all (c : Config) (order : Nat) : (frameReads c order).all isLatchReg = true :=
  (permute_perm order _).all_eq

theorem columnReads_all (order a : Nat) : (columnReads order a).all isLatchPlane = true :=
  (permute_perm order _).all_eq

theorem planColumn_ops (s : State) :
    (∃ f, (planColumn s).1 = [.raise f]) ∨
      ∃ ls : List RendererOp, ls.all isLatchPlane = true ∧ (planColumn s).1 = ls ++ [.drawColumn] := by
  unfold planColumn
  split_ifs
  · exact .inr ⟨_, columnReads_all _ _, rfl⟩
  · exact .inl ⟨_, rfl⟩

theorem encode_of_decodePhase {p : Phase} {i : Instr} (hdec : decodePhase p.code = some i) :
    encode i = .phase p.code := by
  cases p with
  | idle | terminated => cases hdec
  | frameStart | lineBegin | column | lineEnd | frameEnd | poll | pace => cases hdec; rfl

/-- The step that a phase selects begins at that phase's place in the loop. -/
theorem AtPhase.beginStep {i : Instr} {s : State} (hdec : decodePhase s.renderer.phase.code = some i)
    (hops : s.renderer.ops = []) (hs : AtPhase s) : AtPhase (keepRenderer (stepPlan i s).1 s) := by
  cases hphase : s.renderer.phase <;> rw [hphase] at hdec <;> cases hdec <;>
    simp only [AtPhase, keepRenderer_renderer, hphase, hops] at hs ⊢
  case frameStart =>
    obtain ⟨hhold, hde, ls, -, ⟨-, hvr⟩ | ⟨hnil, -⟩⟩ := hs
    · exact ⟨hhold, hde, _, frameReads_all s.cfg s.drawOrder.1, .inl ⟨.inr (.inl rfl), hvr⟩⟩
    · simp at hnil
  case lineBegin =>
    obtain ⟨hhold, hline, ⟨-, hde⟩ | ⟨⟨⟩, -⟩⟩ := hs
    exact ⟨hhold, hline, .inl ⟨.inr rfl, hde⟩⟩
  case column =>
    obtain ⟨hhold, hline, hcol, hde, -⟩ := hs
    exact ⟨hhold, hline, hcol, hde, .inr (planColumn_ops s)⟩
  case lineEnd =>
    obtain ⟨hhold, hlatched, hy, hcol, hvr, ⟨hrow, hde, -⟩ | ⟨-, ⟨⟨⟩, -⟩ | ⟨⟨⟩, -⟩⟩⟩ := hs
    exact ⟨hhold, hlatched, hy, hcol, hvr, .inl ⟨hrow, hde, .inr rfl⟩⟩
  case frameEnd =>
    obtain ⟨hy, hde, ⟨hhold, hvr, -⟩ | ⟨-, ⟨-, ⟨⟩⟩ | ⟨⟨⟩⟩ | ⟨-, ⟨⟩⟩⟩⟩ := hs
    exact ⟨hy, hde, .inl ⟨hhold, hvr, .inr rfl⟩⟩
  case poll =>
    obtain ⟨hhold, hvr, hde, -⟩ := hs
    exact ⟨hhold, hvr, hde, .inr rfl⟩
  case pace =>
    obtain ⟨hvr, hde, ⟨hhold, -⟩ | ⟨-, ⟨⟩⟩ | ⟨⟨⟩⟩ | ⟨-, ⟨⟩⟩⟩ := hs
    exact ⟨hvr, hde, .inr (.inl ⟨hhold, rfl⟩)⟩

/-- A client's turn. -/
theorem fetchClient_rendererInPosition {k : Nat} {s t : State} (hs : RendererInPosition s)
    (ht : runFetched (fetchClient k s) = .next t) : RendererInPosition t := by
  unfold fetchClient at ht
  split at ht
  · cases ht
    exact hs
  · split_ifs at ht
    · split at ht
      · rename_i c _ _ i rest hdec
        obtain ⟨-, ws, henc, -⟩ := beginsWithEncoding_of_decodeWords hdec
        rw [runFetched, exec_command henc] at ht
        rw [issueCommand_next ht, commandPlan_draws]
        exact runClient_rendererInPosition _ _ _ hs
      · cases ht
        exact nofun
      · cases ht
        exact hs
      · cases ht
        exact hs
    · cases ht
      exact runClient_rendererInPosition _ _ _ hs

/-- The renderer's turn. -/
theorem fetchRenderer_rendererInPosition {s t : State} (hwf : s.cfg.wf = true) (hfault : s.fault = none)
    (hs : RendererInPosition s) (ht : runFetched (fetchRenderer s) = .next t) : RendererInPosition t := by
  unfold fetchRenderer at ht
  split_ifs at ht with hops
  · split at ht
    · rename_i i hdec
      rw [runFetched, exec_step (encode_of_decodePhase hdec)] at ht
      rw [issueStep_next ht, stepPlan_draws]
      exact runRenderer_rendererInPosition _ _ hwf fun _ => ((hs hfault).beginStep hdec hops).congr rfl rfl rfl rfl
    · cases ht
      exact hs
  · cases ht
    exact runRenderer_rendererInPosition _ _ hwf hs

/-- Settles O58: a step is a wait, a client's turn or the renderer's; a client's events leave the place alone but for
the start of the loop, and each event of the renderer takes it to the next place. -/
theorem stepKeepsTheRendererInPosition : Obligations.StepKeepsTheRendererInPosition := by
  unfold Obligations.StepKeepsTheRendererInPosition
  intro s t hwf hs hstep
  obtain ⟨hrun, ts, d, ⟨-, rfl⟩ | ⟨ag, g, -, ht⟩⟩ := step_next hstep
  · exact hs
  · cases ag with
    | client k => exact fetchClient_rendererInPosition (s := { s with sched := ts, draws := d, grant := g }) hs ht
    | renderer =>
      have hfault : s.fault = none := (s.running_iff.1 hrun).1
      exact fetchRenderer_rendererInPosition (s := { s with sched := ts, draws := d, grant := g }) hwf hfault hs ht

end Sys2Proof.Machine

/-! The terminal phase (43_frame_renderer.md R170). -/

namespace Sys2Proof.Machine

section Terminated

variable {s : State} (hfault : s.fault = none) (hphase : s.renderer.phase = .terminated)

include hfault hphase

theorem issueCommand_of_terminated (plan : List ClientOp × State) : issueCommand plan s = .fault .terminated := by
  simp [issueCommand, hfault, hphase]

theorem issueStep_of_terminated (plan : List RendererOp × State) : issueStep plan s = .fault .terminated := by
  simp [issueStep, hfault, hphase]

theorem step_of_terminated : step s = .fault .terminated := by
  simp [step, hfault, hphase]

end Terminated

/-- Settles O12: `step` looks at the phase before it chooses a turn, and so does each of the two ways an instruction
issues its events. -/
theorem terminatedMachineHasNoStep : Obligations.TerminatedMachineHasNoStep := by
  unfold Obligations.TerminatedMachineHasNoStep
  intro s hfault hphase
  refine ⟨step_of_terminated hfault hphase, fun i => ?_⟩
  obtain ⟨plan, hplan⟩ | ⟨plan, hplan⟩ := exec_issues i s
  · rw [hplan, issueCommand_of_terminated hfault hphase]
  · rw [hplan, issueStep_of_terminated hfault hphase]

end Sys2Proof.Machine

/-! A step of the renderer performed event by event (20_memory.md R71), where its turn covers it. -/

namespace Sys2Proof.Machine

theorem runRenderer_cons {op : RendererOp} {s : State} (rest : List RendererOp) (hrun : s.running = true)
    (hcan : rendererCan op s = true) :
    runRenderer (op :: rest) none s = runRenderer rest none (performRenderer op s) :=
  runEvents_cons _ _ _ _ op rest none hrun (by simp) hcan

/-- A halted machine drops the events left. -/
theorem runRenderer_halted (ops : List RendererOp) (g : Option Nat) {s : State} (hhalted : s.running = false) :
    runRenderer ops g s = keepRenderer [] s := by
  cases ops with
  | nil => rfl
  | cons op rest => exact runEvents_halted _ _ _ _ op rest g hhalted

/-- A grant that covers the events is no limit. -/
theorem runRenderer_covered {ops : List RendererOp} {g : Option Nat} (s : State)
    (hgrant : ∀ n, g = some n → ops.length ≤ n) : runRenderer ops g s = runRenderer ops none s := by
  cases g with
  | none => rfl
  | some n => exact runEvents_covered _ _ _ s ops n (hgrant n rfl)

theorem running_of_covers {s : State} {n : Nat} (hcovers : s.covers n = true) : s.running = true :=
  ((s.covers_iff n).1 hcovers).1

/-! LINE_BEGIN and LINE_END (R163, R165). -/

theorem exec_lineBegin {s : State} (hcovers : s.covers 2 = true) :
    exec .lineBegin s = .next (keepRenderer [] (doEnterColumns (s.updateSignal .de false))) := by
  have hrun : s.running = true := running_of_covers hcovers
  refine (issueStep_covers _ s 2 hcovers le_rfl).trans ?_
  rw [runRenderer_cons _ hrun rfl]
  exact congrArg _ (runRenderer_cons [] hrun rfl)

/-- Settles O37: by its two events. -/
theorem lineBeginClearsDisplayEnable : Obligations.LineBeginClearsDisplayEnable := by
  unfold Obligations.LineBeginClearsDisplayEnable
  intro s hcovers
  exact ⟨_, exec_lineBegin hcovers, s.status_updateSignal .de false, s.updateSignal_sameRegsBut .de false, rfl⟩

theorem exec_lineEnd {s : State} (hcovers : s.covers 3 = true) :
    exec .lineEnd s = .next (keepRenderer [] (doNextLine ((doAdvanceRow s).updateSignal .de true))) := by
  have hrun : s.running = true := running_of_covers hcovers
  have hadvanced : (doAdvanceRow s).running = true := hrun
  refine (issueStep_covers _ s 3 hcovers le_rfl).trans ?_
  rw [runRenderer_cons _ hrun rfl]
  exact congrArg _ ((runRenderer_cons [.nextLine] hadvanced rfl).trans (runRenderer_cons [] hrun rfl))

/-- Settles O40: by its three events. -/
theorem lineEndAdvancesTheRow : Obligations.LineEndAdvancesTheRow := by
  unfold Obligations.LineEndAdvancesTheRow
  intro s hcovers
  exact ⟨_, exec_lineEnd hcovers, (doAdvanceRow s).status_updateSignal .de true,
    (doAdvanceRow s).updateSignal_sameRegsBut .de true, rfl⟩

/-! POLL (R168). -/

/-- Settles O44: the sample is the draw's, and the draw changes the draws alone. -/
theorem pollTerminatesOrGoesOn : Obligations.PollTerminatesOrGoesOn := by
  unfold Obligations.PollTerminatesOrGoesOn
  intro s hcovers
  refine ⟨s.drawTerminate.1, _, issueStep_one .poll s hcovers rfl, fun b bs hdraws => ?_, fun hdraws => ?_, ?_⟩
  · rw [State.drawTerminate, hdraws]
  · rw [State.drawTerminate, hdraws]
  · rw [performRenderer, doPoll, drawTerminate_draws]
    rfl

/-! The host's answer to a hold (R167, R192). -/

section Hold

variable {s : State}

theorem liftHold_accepted {os : List PresentOutcome} (hhold : s.renderer.hold = some .present)
    (hanswer : s.draws.presents = .accepted :: os) :
    s.liftHold = { s with draws := { s.draws with presents := os } }.unhold := by
  simp [State.liftHold, hhold, hanswer]

theorem liftHold_failed {os : List PresentOutcome} (hhold : s.renderer.hold = some .present)
    (hanswer : s.draws.presents = .failed :: os) :
    s.liftHold = { s with draws := { s.draws with presents := os } }.raise .renderer .outputSurfaceFault := by
  simp [State.liftHold, hhold, hanswer]

theorem liftHold_woken {n : Nat} (hhold : s.renderer.hold = some .sleep) (hwakes : s.draws.wakes = n + 1) :
    s.liftHold = { s with draws := { s.draws with wakes := n } }.unhold := by
  simp [State.liftHold, hhold, hwakes]

theorem answered_of_presents {o : PresentOutcome} {os : List PresentOutcome}
    (hhold : s.renderer.hold = some .present) (hanswer : s.draws.presents = o :: os) : s.answered = true := by
  simp [State.answered, hhold, hanswer]

theorem unanswered_present (hhold : s.renderer.hold = some .present) (hnone : s.draws.presents = []) :
    s.answered = false := by
  simp [State.answered, hhold, hnone]

theorem answered_of_wakes {n : Nat} (hhold : s.renderer.hold = some .sleep) (hwakes : s.draws.wakes = n + 1) :
    s.answered = true := by
  simp [State.answered, hhold, hwakes]

theorem unanswered_sleep (hhold : s.renderer.hold = some .sleep) (hnone : s.draws.wakes = 0) :
    s.answered = false := by
  simp [State.answered, hhold, hnone]

/-- The end of a step that waits for the host, where the host has answered. -/
theorem runRenderer_awaitHost (p : Phase) (hrun : s.running = true) (hanswered : s.answered = true) :
    runRenderer [.awaitHost, .enter p] none s = runRenderer [.enter p] none s.liftHold :=
  runRenderer_cons _ hrun hanswered

theorem runRenderer_enter (p : Phase) (hrun : s.running = true) :
    runRenderer [.enter p] none s = keepRenderer [] (s.enter p) :=
  runRenderer_cons [] hrun rfl

end Hold

/-- The end of a step that waits for the host, where the host has not answered. -/
theorem runRenderer_unanswered {s : State} (rest : List RendererOp) (g : Option Nat) (hrun : s.running = true)
    (hunanswered : s.answered = false) :
    runRenderer (.awaitHost :: rest) g s = keepRenderer (.awaitHost :: rest) s :=
  runEvents_wait s rendererCan _ _ .awaitHost rest g hrun hunanswered

/-- The turn of a held renderer that the host has answered. -/
theorem step_of_answered {s : State} {g : Option Nat} {ts : List Turn} {p : Phase} (hrun : s.running = true)
    (hsched : s.sched = ⟨.renderer, g⟩ :: ts) (hgrant : ∀ n, g = some n → 2 ≤ n)
    (hops : s.renderer.ops = [.awaitHost, .enter p]) (hanswered : s.answered = true) :
    step s = .next (runRenderer [.enter p] none { s with sched := ts, grant := g }.liftHold) := by
  have hresume := stepResumesPendingEvents.2 s g ts hrun hsched hanswered (by simp [hops])
  rw [hops, runRenderer_covered _ hgrant,
    runRenderer_awaitHost (s := { s with sched := ts, grant := g }) p hrun hanswered] at hresume
  exact hresume

/-- Settles O43: by what each answer does to the hold. -/
theorem hostsAnswerEndsTheHold : Obligations.HostsAnswerEndsTheHold := by
  unfold Obligations.HostsAnswerEndsTheHold
  intro s g ts p hrun hsched hgrant hops
  refine ⟨fun os hhold hanswer => ?_, fun os hhold hanswer => ?_, fun n hhold hwakes => ?_⟩
  · have hanswered : s.answered = true := answered_of_presents hhold hanswer
    rw [step_of_answered hrun hsched hgrant hops hanswered,
      liftHold_accepted (s := { s with sched := ts, grant := g }) hhold hanswer]
    exact congrArg _ (runRenderer_enter p hrun)
  · have hanswered : s.answered = true := answered_of_presents hhold hanswer
    rw [step_of_answered hrun hsched hgrant hops hanswered,
      liftHold_failed (s := { s with sched := ts, grant := g }) hhold hanswer, runRenderer_halted _ _ rfl]
    rfl
  · have hanswered : s.answered = true := answered_of_wakes hhold hwakes
    rw [step_of_answered hrun hsched hgrant hops hanswered,
      liftHold_woken (s := { s with sched := ts, grant := g }) hhold hwakes]
    exact congrArg _ (runRenderer_enter p hrun)

/-! FRAME_END (R166, R167). -/

/-- FRAME_END comes to the wait for the host. -/
theorem exec_frameEnd {s : State} (hcovers : s.covers 4 = true) :
    exec .frameEnd s
      = .next (runRenderer [.awaitHost, .enter .poll] none (doPresent (s.updateSignal .vr true))) := by
  have hrun : s.running = true := running_of_covers hcovers
  refine (issueStep_covers _ s 4 hcovers le_rfl).trans ?_
  rw [runRenderer_cons _ hrun rfl]
  exact congrArg _ (runRenderer_cons [.awaitHost, .enter .poll] hrun rfl)

/-- Settles O41: the answer is there when FRAME_END comes to its wait. -/
theorem frameEndPresentsTheFramebuffer : Obligations.FrameEndPresentsTheFramebuffer := by
  unfold Obligations.FrameEndPresentsTheFramebuffer
  intro s o os hcovers hanswer
  have hrun : s.running = true := running_of_covers hcovers
  have hfault : s.fault = none := (s.running_iff.1 hrun).1
  have hhold : (doPresent (s.updateSignal .vr true)).renderer.hold = some .present := rfl
  have hanswered : (doPresent (s.updateSignal .vr true)).answered = true := answered_of_presents hhold hanswer
  have hrun' : (doPresent (s.updateSignal .vr true)).running = true := hrun
  have hexec := exec_frameEnd hcovers
  rw [runRenderer_awaitHost _ hrun' hanswered] at hexec
  have hstatus := s.status_updateSignal .vr true
  have hregs := s.updateSignal_sameRegsBut .vr true
  cases o with
  | accepted =>
    rw [liftHold_accepted hhold hanswer] at hexec
    exact ⟨_, hexec.trans (congrArg _ (runRenderer_enter _ hrun)), hstatus, hregs, rfl, rfl,
      fun _ => ⟨hfault, rfl, rfl⟩, nofun⟩
  | failed =>
    rw [liftHold_failed hhold hanswer, runRenderer_halted _ _ rfl] at hexec
    exact ⟨_, hexec, hstatus, hregs, rfl, rfl, nofun, fun _ => ⟨rfl, rfl, rfl⟩⟩

/-- Settles O42: FRAME_END is kept from its wait on, and no client has changed. -/
theorem unansweredPresentHoldsTheRenderer : Obligations.UnansweredPresentHoldsTheRenderer := by
  unfold Obligations.UnansweredPresentHoldsTheRenderer
  intro s hcovers hnone
  have hrun : s.running = true := running_of_covers hcovers
  have hheld : (doPresent (s.updateSignal .vr true)).answered = false := unanswered_present rfl hnone
  have hrun' : (doPresent (s.updateSignal .vr true)).running = true := hrun
  have hexec := exec_frameEnd hcovers
  rw [runRenderer_unanswered _ _ hrun' hheld] at hexec
  refine ⟨_, hexec, rfl, rfl, (s.running_iff.1 hrun).1, rfl, rfl, rfl, ?_, fun _ => rfl⟩
  exact Bool.and_eq_false_iff.2 (.inl hheld)

end Sys2Proof.Machine

/-! The renderer's reads in any order (20_memory.md R68, 43_frame_renderer.md R161, R164): each logs an event and fills
its own latch slot. -/

namespace Sys2Proof.Machine

/-- The renderer has logged `events` (newest first) and changed its latch by `f`. -/
def State.gather (s : State) (events : List (Agent × Event)) (f : Latch → Latch) : State :=
  { s with history := events ++ s.history, renderer := { s.renderer with latch := f s.renderer.latch } }

/-- The events `op` read the bytes `bytes` into their slots and log `entry`, wherever they come in the order. -/
def ReadsInto (s : State) (op : Fin 4 → RendererOp) (entry : Fin 4 → Agent × Event) (bytes : Fin 4 → Byte) : Prop :=
  ∀ slot events f, rendererCan (op slot) (s.gather events f) = true
    ∧ performRenderer (op slot) (s.gather events f)
      = s.gather (entry slot :: events) fun l => (f l).set slot (bytes slot)

/-- Reads in the order `slots`, performed. -/
theorem runRenderer_reads {s : State} {op : Fin 4 → RendererOp} {entry : Fin 4 → Agent × Event} {bytes : Fin 4 → Byte}
    (hrun : s.running = true) (hreads : ReadsInto s op entry bytes) (slots : List (Fin 4)) (rest : List RendererOp)
    (events : List (Agent × Event)) (f : Latch → Latch) :
    runRenderer (slots.map op ++ rest) none (s.gather events f)
      = runRenderer rest none
          (s.gather (slots.reverse.map entry ++ events) fun l => latchBytes bytes slots (f l)) := by
  induction slots generalizing events f with
  | nil => rfl
  | cons slot slots ih =>
    obtain ⟨hcan, hperform⟩ := hreads slot events f
    have hrun' : (s.gather events f).running = true := hrun
    rw [List.map_cons, List.cons_append, runRenderer_cons _ hrun' hcan, hperform, ih, List.reverse_cons,
      List.map_append, List.append_assoc]
    rfl

/-- A slot that has been read into holds its byte. -/
theorem latchBytes_of_mem (bytes : Fin 4 → Byte) {slots : List (Fin 4)} {i : Fin 4} (hi : i ∈ slots) (l : Latch) :
    (latchBytes bytes slots l)[i.val] = bytes i :=
  (latchBytes_getElem bytes slots l i).trans (if_pos hi)

/-! FRAME_START (R161). -/

/-- The CRT register that FRAME_START reads into a latch slot. -/
def frameCell (c : Config) : Fin 4 → Byte
  | 0 => c.idCrtOffset
  | 1 => c.idCrtStartHi
  | _ => c.idCrtStartLo

/-- The byte that this read latches. -/
def State.frameByte (s : State) (slot : Fin 4) : Byte := s.reg .crt (frameCell s.cfg slot)

/-- The entry that this read appends. -/
def frameEntry (s : State) (slot : Fin 4) : Agent × Event :=
  (.renderer, .regRead .crt (frameCell s.cfg slot) (s.frameByte slot))

/-- The event itself. -/
def frameReadOp (c : Config) (slot : Fin 4) : RendererOp := .latchReg slot .crt (frameCell c slot)

/-- The order of the three reads that a drawn number stands for. -/
def frameOrder (order : Nat) : List (Fin 4) := permute order [0, 1, 2]

theorem frameReads_eq (c : Config) (order : Nat) : frameReads c order = (frameOrder order).map (frameReadOp c) := by
  rw [frameOrder, ← permute_map]
  rfl

theorem frameReads_frameOrder (s : State) (order : Nat) :
    FrameReads s ((frameOrder order).reverse.map (frameEntry s)) :=
  ((List.reverse_perm _).trans (permute_perm order [0, 1, 2])).map (frameEntry s)

theorem frameLatch_getElem (s : State) (order : Nat) (l : Latch) {i : Fin 4} (hi : i ∈ [(0 : Fin 4), 1, 2]) :
    (latchBytes s.frameByte (frameOrder order) l)[i.val] = s.frameByte i :=
  latchBytes_of_mem _ ((permute_perm order _).mem_iff.2 hi) l

/-- FRAME_START after its reading `n` and ClrVR. -/
def State.frameCleared (s : State) (n : Seconds) (d : Draws) : State :=
  { s.updateSignal .vr false with now := n, draws := d, renderer := { s.renderer with t0 := n } }

/-- FRAME_START before its pitch check, the three registers read. -/
def State.frameRead (s : State) (n : Seconds) (d : Draws) (order : Nat) : State :=
  (s.frameCleared n d).gather ((frameOrder order).reverse.map (frameEntry s))
    (latchBytes s.frameByte (frameOrder order))

theorem doReadTime_updateSignal (s : State) (d : Draws) :
    ∃ n d', s.now ≤ n ∧ (doReadTime { s with draws := d }).updateSignal .vr false = s.frameCleared n d' := by
  obtain ⟨hnow, -, -⟩ := drawNow_spec { s with draws := d }
  refine ⟨_, { s with draws := d }.drawNow.2.draws, hnow, ?_⟩
  rw [doReadTime_eq]
  rfl

/-- ClrVR leaves the registers that FRAME_START reads. -/
theorem readsInto_frameCleared (s : State) (n : Seconds) (d : Draws) :
    ReadsInto (s.frameCleared n d) (frameReadOp s.cfg) (frameEntry s) s.frameByte := by
  refine fun slot events f => ⟨rfl, ?_⟩
  have hreg : ((s.frameCleared n d).gather events f).reg .crt (frameCell s.cfg slot) = s.frameByte slot :=
    s.updateSignal_sameRegsBut .vr false .crt _ (by simp)
  rw [frameReadOp, performRenderer, doLatchReg, State.readReg, hreg]
  rfl

/-- FRAME_START comes to its pitch check. -/
theorem exec_frameStart {s : State} (hcovers : s.covers 6 = true) :
    ∃ n d order, s.now ≤ n
      ∧ exec .frameStart s = .next (keepRenderer [] (doLatchFrame (s.frameRead n d order))) := by
  have hrun : s.running = true := running_of_covers hcovers
  have hlen : (planFrameStart s).1.length ≤ 6 := by simp [planFrameStart, frameReads]
  obtain ⟨n, d, hnow, hcleared⟩ := doReadTime_updateSignal s s.drawOrder.2.draws
  have hreads := runRenderer_reads (s := s.frameCleared n d) hrun (readsInto_frameCleared s n d)
    (frameOrder s.drawOrder.1) [.latchFrame] [] id
  rw [List.append_nil] at hreads
  have hrun0 : s.drawOrder.2.running = true := by
    rw [drawOrder_draws]
    exact hrun
  have hrun1 : (doReadTime s.drawOrder.2).running = true := by
    rw [doReadTime_eq]
    exact hrun0
  have hlatch := runRenderer_cons (op := .latchFrame) (s := s.frameRead n d s.drawOrder.1) [] hrun rfl
  refine ⟨n, d, s.drawOrder.1, hnow, (issueStep_covers _ s 6 hcovers hlen).trans (congrArg _ ?_)⟩
  calc runRenderer (planFrameStart s).1 none (planFrameStart s).2
      = runRenderer (frameReads s.cfg s.drawOrder.1 ++ [.latchFrame]) none
          ((doReadTime s.drawOrder.2).updateSignal .vr false) := by
        exact (runRenderer_cons (op := .readTime) _ hrun0 rfl).trans
          (runRenderer_cons (op := .signal .vr false) _ hrun1 rfl)
    _ = runRenderer [.latchFrame] none (s.frameRead n d s.drawOrder.1) := by
      rw [frameReads_eq, drawOrder_draws, hcleared]
      exact hreads
    _ = keepRenderer [] (doLatchFrame (s.frameRead n d s.drawOrder.1)) := hlatch

/-- The latch slots that `doLatchFrame` takes pitch and page start from. -/
theorem frameRead_latch (s : State) (n : Seconds) (d : Draws) (order : Nat) :
    (s.frameRead n d order).renderer.latch[0] = s.reg .crt s.cfg.idCrtOffset
      ∧ (s.frameRead n d order).renderer.latch[1] = s.reg .crt s.cfg.idCrtStartHi
      ∧ (s.frameRead n d order).renderer.latch[2] = s.reg .crt s.cfg.idCrtStartLo :=
  ⟨frameLatch_getElem s order _ (i := 0) (by decide), frameLatch_getElem s order _ (i := 1) (by decide),
    frameLatch_getElem s order _ (i := 2) (by decide)⟩

/-- R28: the two bytes do not overlap. -/
theorem startOf_eq (hi lo : Byte) : startOf hi lo = 256 * hi.toNat + lo.toNat := by
  have hhi : hi.toNat < 256 := hi.isLt
  have hlo : lo.toNat < 256 := lo.isLt
  rw [startOf, BitVec.toNat_or, BitVec.toNat_shiftLeft, BitVec.toNat_setWidth, BitVec.toNat_setWidth,
    Nat.shiftLeft_eq, Nat.mod_eq_of_lt (by omega), Nat.mod_eq_of_lt (by omega), Nat.mod_eq_of_lt (by omega),
    Nat.mul_comm, ← Nat.two_pow_add_eq_or_of_lt hlo]

/-- Settles O36: the pitch check comes after the time reading, ClrVR and the reads, and before the latches. -/
theorem zeroPitchStopsFrameStart : Obligations.ZeroPitchStopsFrameStart := by
  unfold Obligations.ZeroPitchStopsFrameStart
  intro s hcovers hzero
  obtain ⟨n, d, order, hnow, hexec⟩ := exec_frameStart hcovers
  obtain ⟨hoffset, -, -⟩ := frameRead_latch s n d order
  rw [doLatchFrame, if_pos (hoffset.trans hzero)] at hexec
  exact ⟨_, hexec, rfl, hnow, rfl, ⟨_, frameReads_frameOrder s order, rfl⟩, s.status_updateSignal .vr false,
    s.updateSignal_sameRegsBut .vr false, rfl⟩

/-- Settles O35: the latches are computed from the bytes read. -/
theorem frameStartLatchesTheFrame : Obligations.FrameStartLatchesTheFrame := by
  unfold Obligations.FrameStartLatchesTheFrame
  intro s hcovers hnonzero
  obtain ⟨n, d, order, hnow, hexec⟩ := exec_frameStart hcovers
  obtain ⟨hoffset, hhi, hlo⟩ := frameRead_latch s n d order
  rw [doLatchFrame, if_neg fun h => hnonzero (hoffset.symm.trans h)] at hexec
  refine ⟨_, hexec, hnow, ?_, ⟨_, frameReads_frameOrder s order, rfl⟩, s.status_updateSignal .vr false,
    s.updateSignal_sameRegsBut .vr false, rfl⟩
  rw [← startOf_eq, ← hhi, ← hlo, ← hoffset]
  rfl

end Sys2Proof.Machine

/-! COLUMN (43_frame_renderer.md R164, 42_compositor_palette.md R148, R149): four plane reads, eight pixels. -/

namespace Sys2Proof.Machine

theorem cellsGet_putPixel {y x : Nat} (hy : y < displayH) (hx : x < displayW) (c : RGB) (fb : Pixels) (y' : Nat)
    {x' : Nat} (hx' : x' < displayW) :
    cellsGet unlistedPixel (putPixel y x c fb) (pixelKey y' x')
      = if y' = y ∧ x' = x then c else cellsGet unlistedPixel fb (pixelKey y' x') := by
  rw [putPixel, if_pos ⟨hy, hx⟩, cellsGet_put]
  simp only [pixelKey_inj hx' hx]

/-- Eight pixels at `8 * col`, drawn lane by lane. -/
theorem cellsGet_paintLanes {y col : Nat} (hy : y < displayH) (hcol : col < cols) (colour : Fin 8 → RGB)
    (ls : List (Fin 8)) (fb : Pixels) (y' : Nat) {x' : Nat} (hx' : x' < displayW) :
    cellsGet unlistedPixel (ls.foldl (fun m b => putPixel y (8 * col + b.val) (colour b) m) fb) (pixelKey y' x')
      = if y' = y ∧ x' / 8 = col ∧ Fin.ofNat 8 (x' % 8) ∈ ls then colour (Fin.ofNat 8 (x' % 8))
        else cellsGet unlistedPixel fb (pixelKey y' x') := by
  induction ls generalizing fb with
  | nil => simp
  | cons b ls ih =>
    have hx : 8 * col + b.val < displayW := by
      have := b.isLt
      unfold displayW cols at *
      omega
    have hlane : x' = 8 * col + b.val ↔ x' / 8 = col ∧ Fin.ofNat 8 (x' % 8) = b := by
      have := b.isLt
      rw [Fin.ext_iff, Fin.val_ofNat]
      omega
    rw [List.foldl_cons, ih, cellsGet_putPixel hy hx _ _ _ hx']
    simp only [hlane, List.mem_cons]
    grind

/-- What painting a byte-column does to a pixel. -/
theorem cellsGet_paintColumn {y col : Nat} (hy : y < displayH) (hcol : col < cols) (c : Config) (q : Latch)
    (fb : Pixels) (y' : Nat) {x' : Nat} (hx' : x' < displayW) :
    cellsGet unlistedPixel (paintColumn c y col q fb) (pixelKey y' x')
      = if y' = y ∧ x' / 8 = col then lanePixel c q[0] q[1] q[2] q[3] (Fin.ofNat 8 (x' % 8))
        else cellsGet unlistedPixel fb (pixelKey y' x') := by
  have hlanes (b : Fin 8) : b ∈ lanes := by
    revert b
    decide
  refine (cellsGet_paintLanes hy hcol (lanePixel c q[0] q[1] q[2] q[3]) lanes fb y' hx').trans ?_
  simp only [hlanes, and_true]

/-- The entry that COLUMN's read of a plane appends. -/
def columnEntry (s : State) (a : Nat) (k : Fin 4) : Agent × Event := (.renderer, .planeRead k a (s.plane k a))

theorem readsInto_column {s : State} {a : Nat} (ha : a < s.cfg.planeBytes) :
    ReadsInto s (fun k => .latchPlane k a) (columnEntry s a) fun k => s.plane k a := by
  refine fun k events f => ⟨rfl, ?_⟩
  have hin : a < (s.gather events f).cfg.planeBytes := ha
  rw [performRenderer, doLatchPlane, State.memRead_eq, if_pos hin]
  rfl

theorem columnReads_eq (order a : Nat) :
    columnReads order a = (permute order allPlanes).map fun k => .latchPlane k a := permute_map _ _ _

theorem columnReads_perm (s : State) (order a : Nat) :
    ColumnReads s a ((permute order allPlanes).reverse.map (columnEntry s a)) :=
  ((List.reverse_perm _).trans (permute_perm order allPlanes)).map (columnEntry s a)

/-- COLUMN before its pixels: the four planes read at `a`. -/
def State.columnRead (s : State) (d : Draws) (order a : Nat) : State :=
  State.gather { s with draws := d } ((permute order allPlanes).reverse.map (columnEntry s a))
    (latchBytes (fun k => s.plane k a) (permute order allPlanes))

theorem columnRead_latch (s : State) (d : Draws) (order a : Nat) (k : Fin 4) :
    (s.columnRead d order a).renderer.latch[k.val] = s.plane k a :=
  latchBytes_of_mem (fun k => s.plane k a) (mem_permute_allPlanes order k) s.renderer.latch

/-- COLUMN comes to its pixels. -/
theorem exec_column {s : State} (hcovers : s.covers 5 = true) (ha : s.columnOffset < s.cfg.planeBytes) :
    ∃ d order, exec .column s = .next (keepRenderer [] (doDrawColumn (s.columnRead d order s.columnOffset))) := by
  have hrun : s.running = true := running_of_covers hcovers
  have hplan : planColumn s = (columnReads s.drawOrder.1 s.columnOffset ++ [.drawColumn], s.drawOrder.2) :=
    if_pos ((s.inBounds_iff _).2 ha)
  have hlen : (planColumn s).1.length ≤ 5 := by simp [hplan, columnReads, allPlanes]
  refine ⟨s.drawOrder.2.draws, s.drawOrder.1, (issueStep_covers _ s 5 hcovers hlen).trans (congrArg _ ?_)⟩
  have hreads := runRenderer_reads (s := { s with draws := s.drawOrder.2.draws }) hrun (readsInto_column ha)
    (permute s.drawOrder.1 allPlanes) [.drawColumn] [] id
  rw [List.append_nil] at hreads
  rw [hplan, drawOrder_draws, columnReads_eq]
  exact hreads.trans (runRenderer_cons [] hrun rfl)

/-- Settles O39: the bounds check comes before the reads. -/
theorem columnOutOfBoundsFaults : Obligations.ColumnOutOfBoundsFaults := by
  unfold Obligations.ColumnOutOfBoundsFaults
  intro s hcovers ha
  have hout : ¬s.inBounds s.columnOffset = true := fun h => Nat.not_lt.2 ha ((s.inBounds_iff _).1 h)
  have hplan : planColumn s = ([.raise (.boundsFault s.columnOffset)], s) := if_neg hout
  show issueStep (planColumn s) s = _
  rw [hplan]
  exact issueStep_one (.raise (.boundsFault s.columnOffset)) s hcovers rfl

/-- The pixel that the four planes at offset `a` give lane `b` (R149). -/
def State.planePixel (s : State) (a : Nat) (b : Fin 8) : RGB :=
  rgb s.cfg (pixelIndex (s.plane 0 a) (s.plane 1 a) (s.plane 2 a) (s.plane 3 a) b)

/-- The pixels after COLUMN. -/
theorem pixel_doDrawColumn {s : State} (hy : s.renderer.y < displayH) (hcol : s.renderer.col < cols) (d : Draws)
    (order a y : Nat) {x : Nat} (hx : x < displayW) :
    (doDrawColumn (s.columnRead d order a)).pixel y x
      = if y = s.renderer.y ∧ x / 8 = s.renderer.col then s.planePixel a (Fin.ofNat 8 (x % 8)) else s.pixel y x := by
  have h0 : (s.columnRead d order a).renderer.latch[0] = s.plane 0 a := columnRead_latch s d order a 0
  have h1 : (s.columnRead d order a).renderer.latch[1] = s.plane 1 a := columnRead_latch s d order a 1
  have h2 : (s.columnRead d order a).renderer.latch[2] = s.plane 2 a := columnRead_latch s d order a 2
  have h3 : (s.columnRead d order a).renderer.latch[3] = s.plane 3 a := columnRead_latch s d order a 3
  refine (cellsGet_paintColumn hy hcol s.cfg (s.columnRead d order a).renderer.latch s.fb y hx).trans ?_
  rw [lanePixel, h0, h1, h2, h3]
  rfl

/-- Settles O38: by the reads latched, whatever their order, and the pixels painted from them. -/
theorem columnDrawsEightPixels : Obligations.ColumnDrawsEightPixels := by
  unfold Obligations.ColumnDrawsEightPixels
  intro s hcovers hphase hy hcol ha
  obtain ⟨d, order, hexec⟩ := exec_column hcovers ha
  refine ⟨_, hexec, fun b => ?_, fun y x hx hother => ?_, ?_, ⟨_, columnReads_perm s order _, rfl⟩, rfl⟩
  · have hb := b.isLt
    have hx : 8 * s.renderer.col + b.val < displayW := by
      unfold displayW cols at *
      omega
    have hlane : Fin.ofNat 8 ((8 * s.renderer.col + b.val) % 8) = b := by
      rw [Fin.ext_iff, Fin.val_ofNat]
      omega
    refine (pixel_doDrawColumn hy hcol d order _ _ hx).trans ?_
    rw [if_pos ⟨rfl, by omega⟩, hlane]
    rfl
  · exact (pixel_doDrawColumn hy hcol d order _ _ hx).trans (if_neg hother)
  · rw [← hphase]
    rfl

end Sys2Proof.Machine

/-! A renderer that moves alone (20_memory.md R77): the turn is its own as long as it has a step, and without one the
machine waits for the host. -/

namespace Sys2Proof.Machine

section Alone

variable {s : State} (hclients : s.noClientMoves)

include hclients

theorem agentEnabled_client_of_noClientMoves (k : Nat) : s.agentEnabled (.client k) = false := by
  cases hc : s.clients[k]? with
  | none => simp [State.agentEnabled, hc]
  | some c => simp [State.agentEnabled, hc, hclients c (List.mem_of_getElem? hc)]

theorem enabledAgents_of_noClientMoves :
    s.enabledAgents = if s.rendererEnabled then [.renderer] else [] := by
  have hnone : ((List.range s.clients.length).map Agent.client).filter s.agentEnabled = [] := by
    simp [agentEnabled_client_of_noClientMoves hclients]
  have hrenderer : s.agentEnabled .renderer = s.rendererEnabled := rfl
  rw [State.enabledAgents, List.filter_append, hnone, List.nil_append, List.filter_singleton, hrenderer,
    Bool.cond_eq_ite]

theorem chooseTurn_of_renderer_alone (hanswered : s.answered = true) (hen : s.rendererEnabled = true) :
    s.chooseTurn = .turn ⟨.renderer, none⟩ s := by
  simp [State.chooseTurn, enabledAgents_of_noClientMoves hclients, hen, hanswered]

theorem chooseTurn_of_silence (hheld : s.answered = false) : s.chooseTurn = .wait s := by
  simp [State.chooseTurn, enabledAgents_of_noClientMoves hclients, State.rendererEnabled, hheld]

end Alone

theorem nextTurn_of_sched_nil {s : State} (hsched : s.sched = []) : s.nextTurn = s.hearHost.chooseTurn := by
  rw [State.nextTurn, hsched]
  rfl

/-- The turn of a renderer that moves alone, the host having been heard. -/
theorem nextTurn_of_renderer_alone {s : State} (hsched : s.sched = []) (hclients : s.noClientMoves)
    (hanswered : s.hearHost.answered = true) (hen : s.hearHost.rendererEnabled = true) :
    s.nextTurn = .turn ⟨.renderer, none⟩ s.hearHost := by
  have hclients' : s.hearHost.noClientMoves := by
    rw [(hearHost_draws s).1]
    exact hclients
  rw [nextTurn_of_sched_nil hsched, chooseTurn_of_renderer_alone hclients' hanswered hen]

/-- The host does not answer, and nothing else can move. -/
theorem nextTurn_of_silence {s : State} (hsched : s.sched = []) (hclients : s.noClientMoves)
    (hheld : s.hearHost.answered = false) : s.nextTurn = .wait s.hearHost := by
  have hclients' : s.hearHost.noClientMoves := by
    rw [(hearHost_draws s).1]
    exact hclients
  rw [nextTurn_of_sched_nil hsched, chooseTurn_of_silence hclients' hheld]

theorem step_of_wait {s u : State} (hrun : s.running = true) (hnext : s.nextTurn = .wait u) : step s = .next u := by
  obtain ⟨hfault, hphase⟩ := s.running_iff.1 hrun
  simp [step, hfault, hphase, hnext]

/-! A host that is heard (R167, R192). -/

section HearHost

variable {s : State}

theorem hearHost_present (hhold : s.renderer.hold = some .present) (hnone : s.draws.presents = []) :
    s.hearHost = { s.countDraw with
      draws := { s.countDraw.draws with presents := (Config.freePresent s.draws.count).toList } } := by
  simp [State.hearHost, unanswered_present hhold hnone, hhold]

theorem hearHost_sleep (hhold : s.renderer.hold = some .sleep) (hnone : s.draws.wakes = 0) :
    s.hearHost = { s.countDraw with
      draws := { s.countDraw.draws with wakes := (Config.freeWake s.draws.count).toNat } } := by
  simp [State.hearHost, unanswered_sleep hhold hnone, hhold]

/-- No answer to a present: a free value has been counted. -/
theorem hearHost_silent_present (hhold : s.renderer.hold = some .present) (hnone : s.draws.presents = [])
    (hfree : Config.freePresent s.draws.count = none) : s.hearHost = s.countDraw := by
  rw [hearHost_present hhold hnone, hfree, Option.toList_none, ← hnone]
  rfl

/-- No end of a sleep: a free value has been counted. -/
theorem hearHost_silent_sleep (hhold : s.renderer.hold = some .sleep) (hnone : s.draws.wakes = 0)
    (hfree : Config.freeWake s.draws.count = false) : s.hearHost = s.countDraw := by
  rw [hearHost_sleep hhold hnone, hfree, Bool.toNat_false, ← hnone]
  rfl

variable (hrun : s.running = true) (hsched : s.sched = []) (hclients : s.noClientMoves)

include hrun hsched hclients

/-- A held renderer whose host has just answered goes on with its step. -/
theorem step_of_hearHost (hops : s.renderer.ops ≠ []) (hanswered : s.hearHost.answered = true) :
    s.mover = some .renderer
      ∧ step s = .next (runRenderer s.renderer.ops none { s.hearHost with grant := none }) := by
  have hrenderer : s.hearHost.renderer = s.renderer := by rw [(hearHost_draws s).1]
  have hops' : s.hearHost.renderer.ops ≠ [] := by rwa [hrenderer]
  have hnext := nextTurn_of_renderer_alone hsched hclients hanswered
    (agentEnabled_renderer_of_pending hanswered hops')
  have hfetch := fetchRenderer_of_pending (s := { s.hearHost with grant := none }) hops'
  refine ⟨by rw [State.mover, hnext], (step_of_nextTurn hrun hnext).trans ((congrArg runFetched hfetch).trans ?_)⟩
  exact congrArg (fun r : Renderer => Host.Outcome.next (runRenderer r.ops none { s.hearHost with grant := none }))
    hrenderer

/-- A held renderer whose host stays silent. -/
theorem step_of_silence (hsilent : s.hearHost = s.countDraw) (hheld : s.countDraw.answered = false) :
    s.mover = none ∧ step s = .next s.countDraw := by
  have hnext : s.nextTurn = .wait s.countDraw :=
    hsilent ▸ nextTurn_of_silence hsched hclients (hsilent ▸ hheld)
  exact ⟨by rw [State.mover, hnext], step_of_wait hrun hnext⟩

end HearHost

/-- Settles O60: hearing the host counts one free value, and puts an answer into the draws where there is one. -/
theorem silentHostLeavesTheRendererHeld : Obligations.SilentHostLeavesTheRendererHeld := by
  unfold Obligations.SilentHostLeavesTheRendererHeld
  intro s hrun hsched hclients
  have hrenderer : s.hearHost.renderer = s.renderer := by rw [(hearHost_draws s).1]
  refine ⟨fun hhold hnone hfree => ?_, fun hhold hnone hfree => ?_, fun o hhold hnone hfree hops => ?_,
    fun hhold hnone hfree hops => ?_⟩
  · exact step_of_silence hrun hsched hclients (hearHost_silent_present hhold hnone hfree)
      (unanswered_present (s := s.countDraw) hhold hnone)
  · exact step_of_silence hrun hsched hclients (hearHost_silent_sleep hhold hnone hfree)
      (unanswered_sleep (s := s.countDraw) hhold hnone)
  · have hheard : s.hearHost.draws.presents = [o] := by
      rw [hearHost_present hhold hnone, hfree]
      rfl
    exact ⟨hheard, step_of_hearHost hrun hsched hclients hops
      (answered_of_presents (hrenderer ▸ hhold) hheard)⟩
  · have hheard : s.hearHost.draws.wakes = 1 := by
      rw [hearHost_sleep hhold hnone, hfree]
      rfl
    exact ⟨hheard, step_of_hearHost hrun hsched hclients hops (answered_of_wakes (hrenderer ▸ hhold) hheard)⟩

end Sys2Proof.Machine

/-! Whole scanlines and whole frames (43_frame_renderer.md R162, R172): the renderer moves alone, one step of the loop
to a turn. -/

namespace Sys2Proof.Machine

/-! Runs of a machine. -/

theorem run_succ {M : Host.Core} {s t : M.State} (hstep : M.step s = .next t) (n : Nat) :
    M.run (n + 1) s = M.run n t := by
  rw [Host.Core.run, hstep]

theorem run_add {M : Host.Core} {m : Nat} {s t : M.State} (hrun : M.run m s = .next t) (n : Nat) :
    M.run (m + n) s = M.run n t := by
  induction m generalizing s with
  | zero =>
    cases hrun
    rw [Nat.zero_add]
  | succ m ih =>
    cases hstep : M.step s with
    | next u =>
      rw [run_succ hstep] at hrun
      rw [Nat.succ_add, run_succ hstep, ih hrun]
    | fault | refused =>
      rw [Host.Core.run, hstep] at hrun
      cases hrun

theorem run_one {s t : State} (hstep : step s = .next t) : core.run 1 s = .next t :=
  run_succ (M := core) hstep 0

/-- A run of `n` stretches of `m` steps, each of which takes `P` one further. -/
theorem run_stretches {P : Nat → State → Prop} {m n : Nat} {s : State} (hstart : P 0 s)
    (hstretch : ∀ k < n, ∀ t, P k t → ∃ u, core.run m t = .next u ∧ P (k + 1) u) :
    ∃ t, core.run (n * m) s = .next t ∧ P n t := by
  induction n with
  | zero =>
    rw [Nat.zero_mul]
    exact ⟨s, rfl, hstart⟩
  | succ n ih =>
    obtain ⟨t, ht, hn⟩ := ih fun k hk => hstretch k (Nat.lt_succ_of_lt hk)
    obtain ⟨u, hu, hsucc⟩ := hstretch n (Nat.lt_succ_self n) t hn
    exact ⟨u, by rw [Nat.succ_mul, run_add ht, hu], hsucc⟩

/-! The renderer alone. -/

/-- No fault is recorded, the schedule is empty, no client can move, and the renderer is neither held nor in the middle
of a step. -/
structure RendererAlone (s : State) : Prop where
  fault : s.fault = none
  sched : s.sched = []
  clients : s.noClientMoves
  hold : s.renderer.hold = none
  ops : s.renderer.ops = []

/-- The next step is the phase's, uninterrupted. -/
theorem RendererAlone.step_eq_exec {s : State} (h : RendererAlone s) {i : Instr}
    (henc : encode i = .phase s.renderer.phase.code) : step s = exec i { s with grant := none } := by
  obtain ⟨hfault, hsched, hclients, hhold, hops⟩ := h
  have hdec : decodePhase s.renderer.phase.code = some i := decodePhase_encode henc
  have hphase : s.renderer.phase ≠ .terminated := by
    intro hterm
    rw [hterm] at hdec
    cases hdec
  have hanswered : s.answered = true := by simp [State.answered, hhold]
  have hheard : s.hearHost = s := (hearHost_draws s).2 hanswered
  have hen : s.rendererEnabled = true := agentEnabled_renderer_of_phase hhold hdec
  have hnext := nextTurn_of_renderer_alone hsched hclients (hheard.symm ▸ hanswered) (hheard.symm ▸ hen)
  rw [hheard] at hnext
  refine (step_of_nextTurn (s.running_iff.2 ⟨hfault, hphase⟩) hnext).trans ?_
  exact congrArg runFetched (fetchRenderer_of_phase (s := { s with grant := none }) hops hdec)

theorem covers_of_grant_none {s : State} (hrun : s.running = true) (n : Nat) :
    { s with grant := none }.covers n = true :=
  (State.covers_iff _ n).2 ⟨hrun, .inl rfl⟩

/-- `t` has the parameters, planes, clients, schedule and fault record of `s`. -/
structure Undisturbed (s t : State) : Prop where
  cfg : t.cfg = s.cfg
  planes : t.planes = s.planes
  clients : t.clients = s.clients
  sched : t.sched = s.sched
  fault : t.fault = s.fault

theorem Undisturbed.refl (s : State) : Undisturbed s s := ⟨rfl, rfl, rfl, rfl, rfl⟩

theorem Undisturbed.trans {s t u : State} (hst : Undisturbed s t) (htu : Undisturbed t u) : Undisturbed s u where
  cfg := htu.cfg.trans hst.cfg
  planes := htu.planes.trans hst.planes
  clients := htu.clients.trans hst.clients
  sched := htu.sched.trans hst.sched
  fault := htu.fault.trans hst.fault

theorem Undisturbed.planePixel {s t : State} (h : Undisturbed s t) : t.planePixel = s.planePixel := by
  funext a b
  simp only [State.planePixel, State.plane, h.cfg, h.planes]

theorem RendererAlone.undisturbed {s t : State} (h : RendererAlone s) (hsame : Undisturbed s t)
    (hhold : t.renderer.hold = none) (hops : t.renderer.ops = []) : RendererAlone t where
  fault := hsame.fault.trans h.fault
  sched := hsame.sched.trans h.sched
  clients := by
    rw [State.noClientMoves, hsame.clients]
    exact h.clients
  hold := hhold
  ops := hops

/-! A scanline. -/

/-- The renderer is alone, at the first column of a scanline whose bytes exist. -/
structure RowReady (s : State) : Prop where
  alone : RendererAlone s
  phase : s.renderer.phase = .column
  col : s.renderer.col = 0
  y : s.renderer.y < displayH
  bounds : s.renderer.rowBase + 79 < s.cfg.planeBytes

/-- A turn of COLUMN. -/
theorem RendererAlone.column {s : State} (h : RendererAlone s) (hphase : s.renderer.phase = .column)
    (hy : s.renderer.y < displayH) (hcol : s.renderer.col < cols) (ha : s.columnOffset < s.cfg.planeBytes) :
    ∃ t, step s = .next t ∧ Undisturbed s t ∧ t.regs = s.regs
      ∧ (∃ latch, t.renderer = { s.renderer with
          col := s.renderer.col + 1, phase := if s.renderer.col + 1 = cols then .lineEnd else .column, latch := latch })
      ∧ ∀ y x, x < displayW → t.pixel y x
        = if y = s.renderer.y ∧ x / 8 = s.renderer.col then s.planePixel s.columnOffset (Fin.ofNat 8 (x % 8))
          else s.pixel y x := by
  have hrun : s.running = true := s.running_iff.2 ⟨h.fault, by simp [hphase]⟩
  obtain ⟨d, order, hexec⟩ := exec_column (covers_of_grant_none hrun 5) ha
  have hstep := h.step_eq_exec (i := .column) (by rw [hphase]; rfl)
  refine ⟨_, hstep.trans hexec, ⟨rfl, rfl, rfl, rfl, rfl⟩, rfl,
    ⟨(State.columnRead { s with grant := none } d order s.columnOffset).renderer.latch, ?_⟩,
    fun y x hx => pixel_doDrawColumn (s := { s with grant := none }) hy hcol d order s.columnOffset y hx⟩
  rw [← hphase, ← h.ops]
  rfl

/-- `t` is `s` after the first `k` byte-columns of its scanline have been drawn. -/
structure RowDrawn (s : State) (k : Nat) (t : State) : Prop where
  same : Undisturbed s t
  regs : t.regs = s.regs
  renderer : ∃ latch, t.renderer = { s.renderer with
    col := k, phase := if k = cols then .lineEnd else .column, latch := latch }
  pixels : ∀ y x, x < displayW → t.pixel y x
    = if y = s.renderer.y ∧ x / 8 < k then s.planePixel (s.renderer.rowBase + x / 8) (Fin.ofNat 8 (x % 8))
      else s.pixel y x

theorem RowReady.drawn_zero {s : State} (h : RowReady s) : RowDrawn s 0 s where
  same := .refl s
  regs := rfl
  renderer := by
    obtain ⟨-, hphase, hcol, -, -⟩ := h
    refine ⟨s.renderer.latch, ?_⟩
    rw [if_neg (by decide), ← hphase, ← hcol]
  pixels y x hx := by simp

/-- One more byte-column. -/
theorem RowReady.drawn_succ {s t : State} (h : RowReady s) {k : Nat} (hk : k < cols) (ht : RowDrawn s k t) :
    ∃ u, core.run 1 t = .next u ∧ RowDrawn s (k + 1) u := by
  obtain ⟨halone, -, -, hy, hbounds⟩ := h
  obtain ⟨hsame, hregs, ⟨latch, hrenderer⟩, hpixels⟩ := ht
  rw [if_neg (Nat.ne_of_lt hk)] at hrenderer
  have hoffset : t.columnOffset = s.renderer.rowBase + k := by rw [State.columnOffset, hrenderer]
  have halone' : RendererAlone t :=
    halone.undisturbed hsame (by rw [hrenderer]; exact halone.hold) (by rw [hrenderer]; exact halone.ops)
  have hin : t.columnOffset < t.cfg.planeBytes := by
    rw [hoffset, hsame.cfg]
    unfold cols at hk
    omega
  obtain ⟨u, hstep, hsame', hregs', ⟨latch', hrenderer'⟩, hpixels'⟩ :=
    halone'.column (by rw [hrenderer]) (by rw [hrenderer]; exact hy) (by rw [hrenderer]; exact hk) hin
  refine ⟨u, run_one hstep, hsame.trans hsame', hregs'.trans hregs, ⟨latch', by rw [hrenderer', hrenderer]⟩,
    fun y x hx => ?_⟩
  rw [hpixels' y x hx, hpixels y x hx, hsame.planePixel, hoffset, hrenderer]
  by_cases hlast : x / 8 = k
  · simp [hlast]
  · have hlt : x / 8 < k + 1 ↔ x / 8 < k := by omega
    simp only [hlast, and_false, if_false, hlt]

/-- Eighty turns of COLUMN draw the scanline. -/
theorem RowReady.run {s : State} (h : RowReady s) : ∃ t, core.run cols s = .next t ∧ RowDrawn s cols t := by
  obtain ⟨t, ht, hdrawn⟩ := run_stretches (m := 1) h.drawn_zero fun k hk u hu => h.drawn_succ hk hu
  rw [Nat.mul_one] at ht
  exact ⟨t, ht, hdrawn⟩

/-- A pixel's byte-column is one of the scanline's eighty. -/
theorem div_eight_lt_cols {x : Nat} (hx : x < displayW) : x / 8 < cols := by
  unfold displayW cols at *
  omega

/-- Settles O46: by induction on the byte-columns. -/
theorem scanlineIsDrawnInEightyColumns : Obligations.ScanlineIsDrawnInEightyColumns := by
  unfold Obligations.ScanlineIsDrawnInEightyColumns
  intro s n hn hrun hsched hclients hphase hops hhold hcol hy hbounds
  have hfault : s.fault = none := (s.running_iff.1 hrun).1
  obtain ⟨t, ht, hsame, hregs, ⟨latch, hrenderer⟩, hpixels⟩ :=
    RowReady.run ⟨⟨hfault, hsched, hclients, hhold, hops⟩, hphase, hcol, hy, hbounds⟩
  rw [if_pos rfl] at hrenderer
  rw [hn]
  refine ⟨t, ht, fun x hx => ?_, fun y x hx hother => ?_, ?_, hsame.planes, hregs, hsame.clients,
    hsame.fault.trans hfault, hsame.sched.trans hsched⟩
  · rw [hpixels _ x hx, if_pos ⟨rfl, div_eight_lt_cols hx⟩]
    rfl
  · rw [hpixels y x hx, if_neg fun h => hother h.1]
  · rw [hrenderer]

/-! A frame. -/

/-- A turn of LINE_BEGIN. -/
theorem RendererAlone.lineBegin {s : State} (h : RendererAlone s) (hphase : s.renderer.phase = .lineBegin) :
    ∃ t, step s = .next t ∧ Undisturbed s t ∧ t.renderer = { s.renderer with col := 0, phase := .column }
      ∧ t.pixel = s.pixel := by
  have hrun : s.running = true := s.running_iff.2 ⟨h.fault, by simp [hphase]⟩
  have hstep := h.step_eq_exec (i := .lineBegin) (by rw [hphase]; rfl)
  refine ⟨_, hstep.trans (exec_lineBegin (covers_of_grant_none hrun 2)), ⟨rfl, rfl, rfl, rfl, rfl⟩, ?_, rfl⟩
  rw [← h.ops]
  rfl

/-- A turn of LINE_END. -/
theorem RendererAlone.lineEnd {s : State} (h : RendererAlone s) (hphase : s.renderer.phase = .lineEnd) :
    ∃ t, step s = .next t ∧ Undisturbed s t
      ∧ t.renderer = { s.renderer with
          rowBase := s.renderer.rowBase + s.renderer.pitch, y := s.renderer.y + 1
          phase := if s.renderer.y + 1 = displayH then .frameEnd else .lineBegin }
      ∧ t.pixel = s.pixel := by
  have hrun : s.running = true := s.running_iff.2 ⟨h.fault, by simp [hphase]⟩
  have hstep := h.step_eq_exec (i := .lineEnd) (by rw [hphase]; rfl)
  refine ⟨_, hstep.trans (exec_lineEnd (covers_of_grant_none hrun 3)), ⟨rfl, rfl, rfl, rfl, rfl⟩, ?_, rfl⟩
  rw [← h.ops]
  rfl

/-- A whole scanline, from LINE_BEGIN to the end of LINE_END. -/
theorem RendererAlone.line {s : State} (h : RendererAlone s) (hphase : s.renderer.phase = .lineBegin)
    (hy : s.renderer.y < displayH) (hbounds : s.renderer.rowBase + 79 < s.cfg.planeBytes) :
    ∃ t, core.run (cols + 2) s = .next t ∧ Undisturbed s t
      ∧ (∃ latch, t.renderer = { s.renderer with
          col := cols, rowBase := s.renderer.rowBase + s.renderer.pitch, y := s.renderer.y + 1
          phase := if s.renderer.y + 1 = displayH then .frameEnd else .lineBegin, latch := latch })
      ∧ ∀ y x, x < displayW → t.pixel y x
        = if y = s.renderer.y then s.planePixel (s.renderer.rowBase + x / 8) (Fin.ofNat 8 (x % 8))
          else s.pixel y x := by
  obtain ⟨u, hbegin, hsu, hru, hpu⟩ := h.lineBegin hphase
  have hu : RendererAlone u := h.undisturbed hsu (by rw [hru]; exact h.hold) (by rw [hru]; exact h.ops)
  have hready : RowReady u :=
    ⟨hu, by rw [hru], by rw [hru], by rw [hru]; exact hy, by rw [hru, hsu.cfg]; exact hbounds⟩
  obtain ⟨v, hrow, hsv, -, ⟨latch, hrv⟩, hpv⟩ := hready.run
  rw [if_pos rfl] at hrv
  have hv : RendererAlone v := hu.undisturbed hsv (by rw [hrv]; exact hu.hold) (by rw [hrv]; exact hu.ops)
  obtain ⟨w, hend, hsw, hrw, hpw⟩ := hv.lineEnd (by rw [hrv])
  refine ⟨w, ?_, (hsu.trans hsv).trans hsw, ⟨latch, by rw [hrw, hrv, hru]⟩, fun y x hx => ?_⟩
  · calc core.run (cols + 1 + 1) s
        = core.run (cols + 1) u := run_succ (M := core) hbegin _
      _ = core.run 1 v := run_add hrow 1
      _ = .next w := run_one hend
  · rw [hpw, hpv y x hx, hsu.planePixel, hpu, hru]
    simp only [div_eight_lt_cols hx, and_true]

/-- The renderer is alone, at the first scanline of a frame whose bytes exist. -/
structure FrameReady (s : State) : Prop where
  alone : RendererAlone s
  phase : s.renderer.phase = .lineBegin
  y : s.renderer.y = 0
  rowBase : s.renderer.rowBase = s.renderer.start
  bounds : s.renderer.start + 349 * s.renderer.pitch + 79 < s.cfg.planeBytes

/-- `t` is `s` after the first `k` scanlines of its frame have been drawn. -/
structure LinesDrawn (s : State) (k : Nat) (t : State) : Prop where
  same : Undisturbed s t
  renderer : ∃ col latch, t.renderer = { s.renderer with
    y := k, col := col, rowBase := s.renderer.start + k * s.renderer.pitch
    phase := if k = displayH then .frameEnd else .lineBegin, latch := latch }
  pixels : ∀ y x, y < k → x < displayW → t.pixel y x
    = s.planePixel (s.renderer.start + y * s.renderer.pitch + x / 8) (Fin.ofNat 8 (x % 8))

theorem FrameReady.drawn_zero {s : State} (h : FrameReady s) : LinesDrawn s 0 s where
  same := .refl s
  renderer := by
    obtain ⟨-, hphase, hy, hrow, -⟩ := h
    refine ⟨s.renderer.col, s.renderer.latch, ?_⟩
    rw [if_neg (by decide), Nat.zero_mul, Nat.add_zero, ← hphase, ← hy, ← hrow]
  pixels y x hy := absurd hy (Nat.not_lt_zero y)

/-- One more scanline. -/
theorem FrameReady.drawn_succ {s t : State} (h : FrameReady s) {k : Nat} (hk : k < displayH) (ht : LinesDrawn s k t) :
    ∃ u, core.run (cols + 2) t = .next u ∧ LinesDrawn s (k + 1) u := by
  obtain ⟨halone, -, -, -, hbounds⟩ := h
  obtain ⟨hsame, ⟨col, latch, hrenderer⟩, hpixels⟩ := ht
  rw [if_neg (Nat.ne_of_lt hk)] at hrenderer
  have halone' : RendererAlone t :=
    halone.undisturbed hsame (by rw [hrenderer]; exact halone.hold) (by rw [hrenderer]; exact halone.ops)
  have hrows : k * s.renderer.pitch ≤ 349 * s.renderer.pitch := Nat.mul_le_mul_right _ (Nat.le_of_lt_succ hk)
  have hin : t.renderer.rowBase + 79 < t.cfg.planeBytes := by
    rw [hrenderer, hsame.cfg]
    show s.renderer.start + k * s.renderer.pitch + 79 < s.cfg.planeBytes
    omega
  obtain ⟨u, hrun, hsame', ⟨latch', hrenderer'⟩, hpixels'⟩ :=
    halone'.line (by rw [hrenderer]) (by rw [hrenderer]; exact hk) hin
  refine ⟨u, hrun, hsame.trans hsame', ⟨cols, latch', ?_⟩, fun y x hy hx => ?_⟩
  · rw [hrenderer', hrenderer, Nat.succ_mul, Nat.add_assoc]
  · rw [hpixels' y x hx, hsame.planePixel, hrenderer]
    obtain hlt | rfl := Nat.lt_succ_iff_lt_or_eq.1 hy
    · rw [if_neg (Nat.ne_of_lt hlt), hpixels y x hlt hx]
    · rw [if_pos rfl]

/-- Settles O47: by induction on the scanlines. -/
theorem frameContentFollowsTheFormula : Obligations.FrameContentFollowsTheFormula := by
  unfold Obligations.FrameContentFollowsTheFormula
  intro s n hn hrun hsched hclients hphase hops hhold hy hrow hbounds
  have hfault : s.fault = none := (s.running_iff.1 hrun).1
  have hready : FrameReady s := ⟨⟨hfault, hsched, hclients, hhold, hops⟩, hphase, hy, hrow, hbounds⟩
  obtain ⟨t, ht, hsame, ⟨col, latch, hrenderer⟩, hpixels⟩ :=
    run_stretches hready.drawn_zero fun k hk u hu => hready.drawn_succ hk hu
  rw [if_pos rfl] at hrenderer
  rw [hn]
  refine ⟨t, ht, hpixels, ?_, ?_, hsame.planes, hsame.fault.trans hfault⟩
  · rw [hrenderer]
  · rw [hrenderer]

end Sys2Proof.Machine

/-! Time readings and the pacing of frames (44_frame_pacer.md R190, R191): readings never decrease, and PACE logs a
Sleep or an Overrun that is within its bounds. -/

namespace Sys2Proof.Machine

/-- Readings stay within their bounds where the frame's reading and the history stay and time does not go back. -/
theorem TimesOk.congr {s t : State} (hs : TimesOk s) (ht0 : t.renderer.t0 = s.renderer.t0) (hnow : s.now ≤ t.now)
    (hhist : t.history = s.history) : TimesOk t := by
  obtain ⟨hnonneg, hle, hevents⟩ := hs
  unfold TimesOk
  rw [ht0, hhist]
  exact ⟨hnonneg, hle.trans hnow, hevents⟩

/-- So they do where one event is logged that is within its bounds. -/
theorem TimesOk.log {s t : State} {ag : Agent} {e : Event} (hs : TimesOk s) (ht0 : t.renderer.t0 = s.renderer.t0)
    (hnow : s.now ≤ t.now) (hhist : t.history = (ag, e) :: s.history) (he : pacingEventOk (ag, e)) : TimesOk t := by
  obtain ⟨hnonneg, hle, hevents⟩ := hs
  unfold TimesOk
  rw [ht0, hhist]
  exact ⟨hnonneg, hle.trans hnow, List.forall_mem_cons.2 ⟨he, hevents⟩⟩

/-- A frame shorter than the budget, ended not before it began, sleeps a positive time that is at most the budget. -/
theorem TimesOk.pacingEventOk_sleep {s : State} (hs : TimesOk s) {n : Seconds} (hn : s.now ≤ n)
    (hshort : n - s.renderer.t0 < frameBudget) (ag : Agent) :
    pacingEventOk (ag, .sleep (frameBudget - (n - s.renderer.t0))) := by
  obtain ⟨-, hle, -⟩ := hs
  exact ⟨sub_pos.2 hshort, sub_le_self _ (sub_nonneg.2 (hle.trans hn))⟩

/-- A client takes no time reading and logs no pacing event. -/
theorem ClientEffect.timesOk {k : Nat} {s t : State} (h : ClientEffect k s t) (hs : TimesOk s) :
    TimesOk t ∧ t.now = s.now := by
  have hread (bank : Bank) (id : Byte) : TimesOk (s.readReg (.client k) bank id) := hs.log rfl le_rfl rfl trivial
  cases h with
  | clients | start => exact ⟨hs.congr rfl le_rfl rfl, rfl⟩
  | readFault bank id f => exact ⟨(hread bank id).log rfl le_rfl rfl trivial, rfl⟩
  | planeWrite p a v he ha => exact ⟨(hread .seq s.cfg.idMapMask).log rfl le_rfl rfl trivial, rfl⟩
  | fault | regRead | regWrite | unknownWrite | planeRead => exact ⟨hs.log rfl le_rfl rfl trivial, rfl⟩

/-- The renderer's readings do not go back, and what it logs of them is within its bounds. -/
theorem RendererEffect.timesOk {s t : State} (h : RendererEffect s t) (hs : TimesOk s) :
    TimesOk t ∧ s.now ≤ t.now := by
  cases h with
  | own _ _ ht0 | draw _ _ _ _ ht0 => exact ⟨hs.congr ht0 le_rfl rfl, le_rfl⟩
  | time n d hn =>
    obtain ⟨hnonneg, hle, hevents⟩ := hs
    exact ⟨⟨(hnonneg.trans hle).trans hn, le_rfl, hevents⟩, hn⟩
  | fault | signal => exact ⟨hs.log rfl le_rfl rfl trivial, le_rfl⟩
  | regRead _ _ _ ht0 | planeRead _ _ _ ht0 | present _ ht0 => exact ⟨hs.log ht0 le_rfl rfl trivial, le_rfl⟩
  | sleep n d r hn hshort ht0 => exact ⟨hs.log ht0 hn rfl (hs.pacingEventOk_sleep hn hshort _), hn⟩
  | overrun n d hn hlong => exact ⟨hs.log rfl hn rfl (sub_nonneg.2 (not_lt.1 hlong)), hn⟩

/-- Readings in order since a fixed state's latest one are kept by every event. -/
theorem keptByEvents_timesOk (s : State) : KeptByEvents fun t => TimesOk t ∧ s.now ≤ t.now where
  bookkeeping _ _ _ _ _ _ _ ht := ht
  client k op t _ ht := by
    obtain ⟨htimes, hnow⟩ := (performClient_effect k op t).timesOk ht.1
    exact ⟨htimes, ht.2.trans_eq hnow.symm⟩
  renderer op t _ ht := by
    obtain ⟨htimes, hnow⟩ := (performRenderer_effect op t).timesOk ht.1
    exact ⟨htimes, ht.2.trans hnow⟩
  pending _ _ ht := ht

/-- Settles O56: every event keeps the readings in order and the pacing events within their bounds, and a step is made
of events. -/
theorem pacingStaysWithinBounds : Obligations.PacingStaysWithinBounds := by
  unfold Obligations.PacingStaysWithinBounds
  intro s t hs hstep
  exact (keptByEvents_timesOk s).step ⟨hs, le_rfl⟩ hstep

/-! PACE (R190, R192 to R194). -/

/-- `s` after PACE's reading, with the event it logs of it and the hold it then waits in, if any. -/
def State.paced (s : State) (e : Event) (hold : Option Hold) : State :=
  { s with
    now := s.drawNow.1, draws := s.drawNow.2.draws, renderer := { s.renderer with hold := hold }
    history := (.renderer, e) :: s.history }

/-- Under the budget PACE sleeps the rest of it, held. -/
theorem doPace_of_short {s : State} (hshort : s.frameTime < frameBudget) :
    doPace s = s.paced (.sleep (frameBudget - s.frameTime)) (some .sleep) := by
  obtain ⟨-, hdraw, -⟩ := drawNow_spec s
  rw [doPace, if_pos hshort, hdraw]
  rfl

/-- Otherwise it reports the overrun, and holds nothing. -/
theorem doPace_of_long {s : State} (hlong : ¬s.frameTime < frameBudget) :
    doPace s = s.paced (.overrun (s.frameTime - frameBudget)) s.renderer.hold := by
  obtain ⟨-, hdraw, -⟩ := drawNow_spec s
  rw [doPace, if_neg hlong, hdraw]
  rfl

/-- A renderer that is not held waits for nothing. -/
theorem answered_of_unheld {s : State} (hhold : s.renderer.hold = none) : s.answered = true := by
  simp [State.answered, hhold]

theorem liftHold_of_unheld {s : State} (hhold : s.renderer.hold = none) : s.liftHold = s := by
  simp [State.liftHold, hhold]

theorem paced_wakes (s : State) (e : Event) (hold : Option Hold) :
    (s.paced e hold).draws.wakes = s.draws.wakes := (drawNow_spec s).2.2

/-- A sleep that the host has already ended ends with no change but of the draws. -/
theorem liftHold_paced_sleep {s : State} (e : Event) {n : Nat} (hunheld : s.renderer.hold = none)
    (hwakes : s.draws.wakes = n + 1) :
    (s.paced e (some .sleep)).liftHold
      = { s.paced e s.renderer.hold with draws := { s.drawNow.2.draws with wakes := n } } := by
  rw [liftHold_woken rfl ((paced_wakes s e _).trans hwakes), hunheld]
  rfl

section Pace

variable {s : State} {e : Event} {hold : Option Hold} (hcovers : s.covers 3 = true)
  (hpace : doPace s = s.paced e hold)

include hcovers hpace

/-- PACE comes to its wait. -/
theorem exec_pace :
    exec .pace s = .next (runRenderer [.awaitHost, .enter .frameStart] none (s.paced e hold)) := by
  rw [← hpace]
  exact (issueStep_covers _ s 3 hcovers le_rfl).trans (congrArg _ (runRenderer_cons _ (running_of_covers hcovers) rfl))

/-- A sleep that the host has not ended keeps PACE there. -/
theorem exec_pace_of_unanswered (hheld : (s.paced e hold).answered = false) :
    exec .pace s = .next (keepRenderer [.awaitHost, .enter .frameStart] (s.paced e hold)) := by
  have hrun : (s.paced e hold).running = true := running_of_covers hcovers
  rw [exec_pace hcovers hpace, runRenderer_unanswered _ _ hrun hheld]

/-- Without a hold, or with one that the host has ended, PACE goes on to FRAME_START. -/
theorem exec_pace_of_answered {d : Draws} (hanswered : (s.paced e hold).answered = true)
    (hlift : (s.paced e hold).liftHold = { s.paced e s.renderer.hold with draws := d }) :
    exec .pace s = .next (keepRenderer [] ({ s.paced e s.renderer.hold with draws := d }.enter .frameStart)) := by
  have hrun : s.running = true := running_of_covers hcovers
  have hpaced : (s.paced e hold).running = true := hrun
  have hlifted : { s.paced e s.renderer.hold with draws := d }.running = true := hrun
  rw [exec_pace hcovers hpace, runRenderer_awaitHost _ hpaced hanswered, hlift, runRenderer_enter _ hlifted]

end Pace

/-- Settles O45: PACE's reading decides whether it holds the renderer, and only a sleep that the host has not yet ended
keeps it from FRAME_START. -/
theorem paceSleepsOrReportsTheOverrun : Obligations.PaceSleepsOrReportsTheOverrun := by
  unfold Obligations.PaceSleepsOrReportsTheOverrun
  intro s hcovers hunheld
  obtain ⟨hnow, -, -⟩ := drawNow_spec s
  by_cases hshort : s.frameTime < frameBudget
  · have hpace := doPace_of_short hshort
    have hwakes := paced_wakes s (.sleep (frameBudget - s.frameTime)) (some .sleep)
    cases hcount : s.draws.wakes with
    | zero =>
      have hheld := unanswered_sleep rfl (hwakes.trans hcount)
      exact ⟨_, exec_pace_of_unanswered hcovers hpace hheld, hnow,
        fun _ => ⟨rfl, fun _ => ⟨rfl, Bool.and_eq_false_iff.2 (.inl hheld)⟩, nofun⟩,
        fun hlong => absurd hshort hlong.not_gt, rfl⟩
    | succ n =>
      have hanswered := answered_of_wakes rfl (hwakes.trans hcount)
      exact ⟨_, exec_pace_of_answered hcovers hpace hanswered (liftHold_paced_sleep _ hunheld hcount), hnow,
        fun _ => ⟨rfl, nofun, fun _ => rfl⟩, fun hlong => absurd hshort hlong.not_gt, rfl⟩
  · have hpace := doPace_of_long hshort
    exact ⟨_, exec_pace_of_answered hcovers hpace (answered_of_unheld hunheld) (liftHold_of_unheld hunheld), hnow,
      fun h => absurd h hshort, fun _ => ⟨rfl, rfl⟩, rfl⟩

end Sys2Proof.Machine

/-! GET_REG and SET_REG (46_register_interface.md R210 to R212, R216): a read that is then returned, and a write of one
cell. -/

namespace Sys2Proof.Machine

/-- A command that reads a byte into latch slot 0 and returns it, from its first event to its end. -/
theorem issueCommand_respond {s : State} {op : ClientOp} {c : Client} {d : Draws} {e : Agent × Event} {v : Byte}
    (hcovers : s.covers 2 = true) (hc : s.clients[s.issuer]? = some c)
    (hop : performClient s.issuer op s = State.advance { s with draws := d } s.planes [e] (·.set 0 v)) :
    issueCommand ([op, .respond], s) s = .next
      { s with
        draws := d
        history := e :: s.history
        clients := s.clients.set s.issuer { c with response := some v, ops := [], latch := c.latch.set 0 v } } := by
  have hevents : performAll s.issuer [op, .respond] s
      = doRespond s.issuer (State.advance { s with draws := d } s.planes [e] (·.set 0 v)) := by
    rw [performAll_cons, hop]
    rfl
  rw [issueCommand_performAll hcovers le_rfl (by rw [hevents]; exact running_of_covers hcovers), hevents]
  simp only [doRespond, keepClient, State.modifyClient, State.advance, List.modify_modify_eq]
  rw [modify_eq_set _ hc]
  simp

theorem performClient_getReg_known {s : State} {bank : Bank} {id : Byte} (hknown : s.knows bank id = true) :
    performClient s.issuer (.getReg bank id) s
      = s.advance s.planes [(.client s.issuer, .regRead bank id (s.reg bank id))] (·.set 0 (s.reg bank id)) := by
  rw [performClient, doGetReg, if_pos hknown]
  rfl

theorem performClient_getReg_unknown {s : State} {bank : Bank} {id : Byte} (hunknown : s.knows bank id = false) :
    performClient s.issuer (.getReg bank id) s
      = State.advance { s with draws := s.drawByte.2.draws } s.planes
          [(.client s.issuer, .regRead bank id s.drawByte.1)] (·.set 0 s.drawByte.1) := by
  rw [performClient, doGetReg, if_neg (Bool.eq_false_iff.1 hunknown), drawByte_draws]
  rfl

theorem drawByte_of_given {s : State} {b : Byte} {bs : List Byte} (hbytes : s.draws.bytes = b :: bs) :
    s.drawByte.1 = b := by
  simp [State.drawByte, hbytes]

theorem drawByte_of_none {s : State} (hbytes : s.draws.bytes = []) :
    s.drawByte.1 = Config.freeByte s.draws.count := by
  simp [State.drawByte, hbytes]

/-- Settles O18: the read latches the cell's byte, or the byte drawn for an unknown code, and the response is the byte
latched. -/
theorem getRegRespondsAndChangesNothingElse : Obligations.GetRegRespondsAndChangesNothingElse := by
  unfold Obligations.GetRegRespondsAndChangesNothingElse
  intro s bank id c hcovers hc
  cases hknows : s.knows bank id with
  | true =>
    exact ⟨s.reg bank id, _, issueCommand_respond (d := s.draws) hcovers hc (performClient_getReg_known hknows),
      fun _ => ⟨rfl, rfl⟩, nofun, nofun, rfl⟩
  | false =>
    exact ⟨s.drawByte.1, _, issueCommand_respond hcovers hc (performClient_getReg_unknown hknows), nofun,
      fun _ _ _ => drawByte_of_given, fun _ => drawByte_of_none, rfl⟩

/-- `R[bank][id] <- v` where the code is known; an unknown code changes no cell (R21). -/
def State.writeKnown (s : State) (bank : Bank) (id v : Byte) : State :=
  if s.knows bank id then s.setCell bank id v else s

theorem State.reg_writeKnown (s : State) (bank : Bank) (id v : Byte) :
    (s.writeKnown bank id v).reg bank id = if s.knows bank id then v else s.reg bank id := by
  unfold State.writeKnown
  split_ifs
  · simp [State.reg_setCell]
  · rfl

theorem State.writeKnown_sameRegsBut (s : State) (bank : Bank) (id v : Byte) :
    SameRegsBut bank id s (s.writeKnown bank id v) := by
  intro bank' id' hother
  unfold State.writeKnown
  split_ifs
  · rw [State.reg_setCell, if_neg hother]
  · rfl

theorem performClient_setReg {s : State} {bank : Bank} {id : Byte} (hid : ¬(bank = .gen ∧ id = s.cfg.idStatus))
    (k : Nat) (v : Byte) :
    performClient k (.setReg bank id v) s =
      { s with
        regs := (s.writeKnown bank id v).regs
        history := (.client k, .regWrite bank id v) :: s.history } := by
  rw [performClient, doSetReg, if_neg hid, State.writeKnown]
  split_ifs <;> rfl

theorem keepClient_eq_set {s : State} {k : Nat} {c : Client} (hc : s.clients[k]? = some c) (ops : List ClientOp) :
    keepClient k ops s = { s with clients := s.clients.set k { c with ops := ops } } := by
  rw [keepClient, State.modifyClient, modify_eq_set _ hc]

/-- Settles O19: its one event writes the cell if the code is known. -/
theorem setRegReplacesTheByte : Obligations.SetRegReplacesTheByte := by
  unfold Obligations.SetRegReplacesTheByte
  intro s bank id v c hcovers hc hid
  have hissue : exec (.setReg bank id v) s = _ := issueCommand_one _ s hcovers
  rw [performClient_setReg hid, keepClient_eq_set (c := c) (by exact hc)] at hissue
  refine ⟨_, hissue, ?_, ?_, rfl⟩
  · exact s.reg_writeKnown bank id v
  · exact s.writeKnown_sameRegsBut bank id v

/-- Settles O20: its one event is the fault. -/
theorem statusWriteIsUsageFault : Obligations.StatusWriteIsUsageFault := by
  unfold Obligations.StatusWriteIsUsageFault
  intro s v hcovers
  exact issueCommand_faultsWith [] hcovers (if_pos ⟨rfl, rfl⟩)

end Sys2Proof.Machine

/-! A client blocked in START_RENDERING (46_register_interface.md R217): it has no step, and the turns of the others leave
it alone. -/

namespace Sys2Proof.Machine

theorem agentEnabled_client_of_blocked {s : State} {k : Nat} {c : Client} (hc : s.clients[k]? = some c)
    (hblocked : c.blocked = true) : s.agentEnabled (.client k) = false := by
  simp [State.agentEnabled, hc, Client.enabled, hblocked]

theorem SameOtherClients.trans {k : Nat} {s t u : State} (hst : SameOtherClients k s t) (htu : SameOtherClients k t u) :
    SameOtherClients k s u := fun j hj => (htu j hj).trans (hst j hj)

theorem sameOtherClients_of_eq {k : Nat} {s t : State} (h : t.clients = s.clients) : SameOtherClients k s t :=
  fun j _ => congrArg (·[j]?) h

theorem sameOtherClients_modify {k : Nat} {s t : State} {f : Client → Client}
    (h : t.clients = s.clients.modify k f) : SameOtherClients k s t := fun j hj => by
  rw [h, List.getElem?_modify_ne _ _ hj.symm]

/-- An event of a client changes no other client. -/
theorem performClient_sameOtherClients (k : Nat) (op : ClientOp) (s : State) :
    SameOtherClients k s (performClient k op s) := by
  cases op with
  | getReg bank id =>
    simp only [performClient, doGetReg]
    split_ifs
    · exact sameOtherClients_modify rfl
    · rw [drawByte_draws]
      exact sameOtherClients_modify rfl
  | readPlane p a =>
    simp only [performClient, doReadPlane, State.memRead_eq]
    split_ifs
    · exact sameOtherClients_modify rfl
    · exact sameOtherClients_of_eq rfl
  | start mode =>
    simp only [performClient, doStart]
    split_ifs
    · exact sameOtherClients_of_eq rfl
    · exact sameOtherClients_of_eq rfl
    · exact sameOtherClients_modify rfl
  | setReg | writePlane | checkPlanar | checkPhase | checkMode =>
    simp only [performClient, doSetReg, doWritePlane, State.memWrite_eq, doCheckPlanar, doCheckPhase, doCheckMode]
    split_ifs <;> exact sameOtherClients_of_eq rfl
  | readMode | respond | readPitch => exact sameOtherClients_modify rfl
  | raise => exact sameOtherClients_of_eq rfl

theorem runClient_sameOtherClients (k : Nat) (ops : List ClientOp) (g : Option Nat) (s : State) :
    SameOtherClients k s (runClient k ops g s) :=
  runEvents_induct _ _ (keepClient k) (SameOtherClients k s)
    (fun op t _ ht => ht.trans (performClient_sameOtherClients k op t))
    (fun _ _ ht => ht.trans (sameOtherClients_modify rfl)) ops g s (sameOtherClients_of_eq rfl)

theorem RendererEffect.clients_eq {s t : State} (h : RendererEffect s t) : t.clients = s.clients := by
  cases h <;> rfl

theorem runRenderer_clients (ops : List RendererOp) (g : Option Nat) (s : State) :
    (runRenderer ops g s).clients = s.clients :=
  runEvents_induct _ _ keepRenderer (fun t => t.clients = s.clients)
    (fun op t _ ht => (performRenderer_effect op t).clients_eq.trans ht) (fun _ _ ht => ht) ops g s rfl

/-- A client's turn changes no other client. -/
theorem fetchClient_sameOtherClients {k : Nat} {s t : State} (ht : runFetched (fetchClient k s) = .next t) :
    SameOtherClients k s t := by
  unfold fetchClient at ht
  split at ht
  · cases ht
    exact sameOtherClients_of_eq rfl
  · split_ifs at ht
    · split at ht
      · rename_i c _ _ i rest hdec
        obtain ⟨-, ws, henc, -⟩ := beginsWithEncoding_of_decodeWords hdec
        rw [runFetched, exec_command henc] at ht
        rw [issueCommand_next ht, commandPlan_draws]
        exact (sameOtherClients_modify rfl).trans (runClient_sameOtherClients k _ _ _)
      · cases ht
        exact sameOtherClients_of_eq rfl
      · cases ht
        exact sameOtherClients_of_eq rfl
      · cases ht
        exact sameOtherClients_of_eq rfl
    · cases ht
      exact runClient_sameOtherClients k _ _ s

/-- The renderer's turn changes no client. -/
theorem fetchRenderer_clients {s t : State} (ht : runFetched (fetchRenderer s) = .next t) :
    t.clients = s.clients := by
  unfold fetchRenderer at ht
  split_ifs at ht
  · split at ht
    · rename_i i hdec
      rw [runFetched, exec_step (encode_of_decodePhase hdec)] at ht
      rw [issueStep_next ht, stepPlan_draws, runRenderer_clients]
    · cases ht
      rfl
  · cases ht
    exact runRenderer_clients _ _ s

/-- Settles O59: the step is a wait or the turn of an agent with an enabled step, so not of the blocked client; and no
other agent's turn changes that client. -/
theorem blockedClientNeverMovesAgain : Obligations.BlockedClientNeverMovesAgain := by
  unfold Obligations.BlockedClientNeverMovesAgain
  intro s t k c hc hblocked hstep
  refine ⟨agentEnabled_client_of_blocked hc hblocked, ?_⟩
  obtain ⟨-, ts, d, ⟨-, rfl⟩ | ⟨ag, g, hen, ht⟩⟩ := step_next hstep
  · exact hc
  · cases ag with
    | client j =>
      have hne : k ≠ j := by
        rintro rfl
        have hdisabled := agentEnabled_client_of_blocked (s := { s with sched := ts, draws := d }) hc hblocked
        exact absurd hen (by simp [hdisabled])
      exact (fetchClient_sameOtherClients ht k hne).trans hc
    | renderer => rw [fetchRenderer_clients ht, hc]

end Sys2Proof.Machine

/-! START_RENDERING (46_register_interface.md R213 to R217): three checks and a read, in R213's order, then the start. -/

namespace Sys2Proof.Machine

/-- A command that its turn covers, performed up to the fault of one of its events. -/
theorem issueCommand_raise {s t : State} {before : List ClientOp} {op : ClientOp} {f : FaultRecord} {n : Nat}
    (after : List ClientOp) (hcovers : s.covers n = true) (hlen : before.length < n)
    (hbefore : performAll s.issuer before s = t) (hrun : t.running = true)
    (hop : performClient s.issuer op t = t.raise (.client s.issuer) f) :
    issueCommand (before ++ op :: after, s) s = .next (keepClient s.issuer [] (t.raise (.client s.issuer) f)) := by
  rw [issueCommand_running _ (running_of_covers hcovers)]
  exact congrArg _
    (runClient_raise after hbefore hrun (fun m hm => hlen.trans_le (grant_le_of_covers hcovers hm)) hop)

theorem performClient_checkPhase_idle {s : State} (hidle : s.renderer.phase = .idle) (k : Nat) :
    performClient k .checkPhase s = s := if_neg (not_not.2 hidle)

theorem performClient_checkMode_supported (s : State) (k : Nat) :
    performClient k (.checkMode s.cfg.supportedMode) s = s := if_neg (not_not.2 rfl)

/-- START_RENDERING's read of CRT Offset, by the client at turn. -/
def State.pitchRead (s : State) : State :=
  s.advance s.planes [(.client s.issuer, .regRead .crt s.cfg.idCrtOffset (s.reg .crt s.cfg.idCrtOffset))]
    (·.set 0 (s.reg .crt s.cfg.idCrtOffset))

/-- The first three events, both checks passing. -/
theorem performAll_untilPitchRead {s : State} (hidle : s.renderer.phase = .idle) :
    performAll s.issuer [.checkPhase, .checkMode s.cfg.supportedMode, .readPitch] s = s.pitchRead := by
  rw [performAll_cons, performClient_checkPhase_idle hidle, performAll_cons, performClient_checkMode_supported]
  rfl

/-- The check of the byte read is the check of CRT Offset. -/
theorem readZeroPitch_pitchRead {s : State} (hissuer : s.issuer < s.clients.length) :
    s.pitchRead.readZeroPitch s.issuer = decide (s.reg .crt s.cfg.idCrtOffset = 0) := by
  rw [State.readZeroPitch, State.pitchRead, State.advance_client _ _ _ (List.getElem?_eq_getElem hissuer)]
  simp

/-- Settles O22: in each case the events before the failing check pass, and it raises the fault. -/
theorem startRenderingRejectsBadConfiguration : Obligations.StartRenderingRejectsBadConfiguration := by
  unfold Obligations.StartRenderingRejectsBadConfiguration
  intro s mode hcovers hissuer hbad
  have hrun : s.running = true := running_of_covers hcovers
  split_ifs with hphase hmode
  · exact ⟨_, issueCommand_raise (before := []) _ hcovers (by decide) rfl hrun (if_pos hphase), faultsWith_raise s _⟩
  · have hidle : s.renderer.phase = .idle := not_not.1 hphase
    exact ⟨_, issueCommand_raise (before := [.checkPhase]) _ hcovers (by decide)
      (performClient_checkPhase_idle hidle _) hrun (if_pos hmode), faultsWith_raise s _⟩
  · have hidle : s.renderer.phase = .idle := not_not.1 hphase
    obtain rfl : mode = s.cfg.supportedMode := not_not.1 hmode
    have hzero : s.reg .crt s.cfg.idCrtOffset = 0 := by simpa [hidle] using hbad
    have hread : s.pitchRead.readZeroPitch s.issuer = true := by simp [readZeroPitch_pitchRead hissuer, hzero]
    refine ⟨_, issueCommand_raise (before := [.checkPhase, .checkMode s.cfg.supportedMode, .readPitch]) [] hcovers
      (by simp) (performAll_untilPitchRead hidle) hrun (if_pos hread), ?_⟩
    rw [← hzero]
    exact faultsWith_advance s s.draws _ _ _

theorem performAll_startRendering {s : State} (hissuer : s.issuer < s.clients.length)
    (hidle : s.renderer.phase = .idle) (hpitch : s.reg .crt s.cfg.idCrtOffset ≠ 0) :
    performAll s.issuer [.checkPhase, .checkMode s.cfg.supportedMode, .readPitch, .start s.cfg.supportedMode] s
      = s.pitchRead.startFrames s.issuer s.cfg.supportedMode := by
  have hread : ¬s.pitchRead.readZeroPitch s.issuer = true := by
    rw [readZeroPitch_pitchRead hissuer]
    simpa using hpitch
  have hstart : performClient s.issuer (.start s.cfg.supportedMode) s.pitchRead
      = s.pitchRead.startFrames s.issuer s.cfg.supportedMode := (if_neg hread).trans (if_neg (not_not.2 hidle))
  rw [← hstart, ← performAll_untilPitchRead hidle]
  rfl

theorem startFrames_running {s : State} (hrun : s.running = true) (k : Nat) (mode : Byte) :
    (s.startFrames k mode).running = true :=
  (State.running_iff _).2 ⟨(s.running_iff.1 hrun).1, nofun⟩

/-- The state in which the command leaves the machine. -/
theorem keepClient_startFrames_pitchRead {s : State} {c : Client} (hc : s.clients[s.issuer]? = some c) (mode : Byte) :
    keepClient s.issuer [] (s.pitchRead.startFrames s.issuer mode) =
      { s with
        renderer := { s.renderer with mode := mode, phase := .frameStart }
        history := (.client s.issuer, .regRead .crt s.cfg.idCrtOffset (s.reg .crt s.cfg.idCrtOffset)) :: s.history
        clients :=
          s.clients.set s.issuer
            { c with blocked := true, ops := [], latch := c.latch.set 0 (s.reg .crt s.cfg.idCrtOffset) } } := by
  simp only [keepClient, State.startFrames, State.pitchRead, State.advance, State.modifyClient, List.modify_modify_eq]
  rw [modify_eq_set _ hc]
  rfl

/-- Settles O21: all four events pass, and the last one blocks the client. -/
theorem startRenderingStartsTheFrameLoop : Obligations.StartRenderingStartsTheFrameLoop := by
  unfold Obligations.StartRenderingStartsTheFrameLoop
  intro s c hcovers hc hidle hpitch
  have hissuer : s.issuer < s.clients.length := issuer_lt_of_client hc
  have hevents := performAll_startRendering hissuer hidle hpitch
  have hread : s.pitchRead.running = true := running_of_covers hcovers
  have hrun := startFrames_running hread s.issuer s.cfg.supportedMode
  refine ⟨_, issueCommand_performAll hcovers le_rfl (by rwa [hevents]), ?_⟩
  rw [hevents, keepClient_startFrames_pitchRead hc]
  exact ⟨rfl, agentEnabled_client_of_blocked (List.getElem?_set_self hissuer) rfl⟩

end Sys2Proof.Machine

/-! Storage with nothing listed reads as 0 (assumption 1), and so does all of it at reset. -/

namespace Sys2Proof.Machine

theorem State.reg_of_regs_nil {s : State} (hregs : s.regs = []) (bank : Bank) (id : Byte) : s.reg bank id = 0 := by
  rw [State.reg, hregs]
  rfl

theorem State.plane_of_planes_nil {s : State} (hplanes : s.planes = []) (k : Fin 4) (a : Nat) : s.plane k a = 0 := by
  rw [State.plane, hplanes]
  rfl

/-- Settles O17: reset lists neither a register cell nor a plane byte. -/
theorem resetCellsAreZero : Obligations.ResetCellsAreZero := by
  unfold Obligations.ResetCellsAreZero
  intro cfg first more
  exact ⟨State.reg_of_regs_nil rfl, State.plane_of_planes_nil rfl⟩

end Sys2Proof.Machine
